-- ==== Sys2Proof/Word.lean ====
section
/-! DEFINITION. The one width of the machine: a 32-bit word, read as an IEEE 754 binary32 value (rules R7, R100). -/

namespace Sys2Proof

/-- A binary32 value as its bit pattern: sign in bit 31, exponent in bits 30:23, fraction in bits 22:0 (rule R7). The
pattern is kept, not only the number, because a rate is compared by its bits (rule R245) and a stored NaN is stored as given. -/
abbrev F32 := BitVec 32

end Sys2Proof
end

