-- ==== Sys2Proof/Config.lean ====
section
/-! DEFINITION. What an implementation fixes: the parameters of rule R6 (plain data, held in State, so that a statement
holds for every value of them), the functions NUM and TILT_RAW (opaque: the spec states no value), and the free values. -/

namespace Sys2Proof

/-- Low or high shelf, for `CHAR_SHELF_SIDE` (decision D12). -/
inductive ShelfSide where
  | low
  | high
deriving DecidableEq, Repr

/-- `CHAR_SHELF_SIDE`: the shelf of each of the four shelf-type character filters (rule R6, decision D12). -/
structure CharShelfSides where
  warmth : ShelfSide
  bright : ShelfSide
  air : ShelfSide
  subbass : ShelfSide
deriving DecidableEq, Repr

/-- `BPF_GAIN_ASSIGNMENT` (rule R6, conflict C1): `asNamed` exchanges the two band-pass numerators. -/
inductive BpfGainAssignment where
  | asWritten
  | asNamed
deriving DecidableEq, Repr

/-- `ONEPOLE_K_READING` (rule R6, conflict C4): `tan(ω0)/2` or `tan(ω0/2)`. -/
inductive OnepoleKReading where
  | asWritten
  | halfAngle
deriving DecidableEq, Repr

/-- The plain-data parameters of rule R6. The four instance counts are the lengths of State's lists. -/
structure Params where
  /-- `DL_MAX_LEN`, the capacity of each delay memory in samples, 1 to 2^24. -/
  dlMaxLen : Nat
  charShelfSide : CharShelfSides
  dcblockFreqHz : F32
  dcblockQ : F32
  bpfGainAssignment : BpfGainAssignment
  onepoleKReading : OnepoleKReading
deriving DecidableEq, Repr

/-- The numerics record `NUM`: six total functions, each depending on its operand alone (rule R104): on its bits, which for a
NaN is the model's choice (log 20). -/
structure Numerics where
  fsin : F32 → F32
  fcos : F32 → F32
  ftan : F32 → F32
  fexp : F32 → F32
  flog10 : F32 → F32
  fpow10 : F32 → F32

/-- The six raw coefficients of a derivation, before the division by a0 (rule R134). -/
structure RawCoefs where
  b0r : F32
  b1r : F32
  b2r : F32
  a0r : F32
  a1r : F32
  a2r : F32
deriving DecidableEq, Repr, Inhabited

/-- The eight values `TILT_RAW` may depend on (rule R147). -/
structure TiltArgs where
  f : F32
  w0 : F32
  cs : F32
  sn : F32
  al : F32
  A : F32
  At : F32
  sqrtAt : F32
deriving DecidableEq, Repr

/-- The operations whose result the spec leaves partly open: which NaN (rule R103), which zero (rule R107). -/
inductive FOp where
  | add
  | sub
  | mul
  | div
  | sqrt
  | max
  | min
deriving DecidableEq, Repr

namespace Config

/-- `NUM.fsin` of the hardware, uninterpreted (rule R104, log 5). -/
opaque fsin : F32 → F32
/-- `NUM.fcos` of the hardware, uninterpreted (rule R104, log 5). -/
opaque fcos : F32 → F32
/-- `NUM.ftan` of the hardware, uninterpreted (rule R104, log 5). -/
opaque ftan : F32 → F32
/-- `NUM.fexp` of the hardware, uninterpreted (rule R104, log 5). -/
opaque fexp : F32 → F32
/-- `NUM.flog10` of the hardware, uninterpreted (rule R104, log 5). -/
opaque flog10 : F32 → F32
/-- `NUM.fpow10` of the hardware, uninterpreted (rule R104, log 5). -/
opaque fpow10 : F32 → F32

/-- The hardware's `NUM` record. -/
def num : Numerics := ⟨fsin, fcos, ftan, fexp, flog10, fpow10⟩

/-- `TILT_RAW`, uninterpreted: "a total function of the values listed" (rule R147, log 6; their bits where they are NaNs, log
20). -/
opaque tiltRaw : TiltArgs → RawCoefs

/-- FREE VALUE: the bits of the NaN an operation gives for these operands (rule R103, log 7). -/
opaque nanChoice : FOp → F32 → F32 → F32

/-- FREE VALUE: which of two zeros `fmax` or `fmin` returns (rule R107, log 8). -/
opaque zeroChoice : FOp → F32 → F32 → Bool

/-- FREE VALUE: whether delay line `i` keeps its content at its `n`-th `DL_SETRATE` of the unchanged case (rule R246, log 9). -/
opaque setRateKeeps : Nat → Nat → Bool

end Config

end Sys2Proof
end

