-- ==== Sys2Proof/Syntax.lean ====
section
/-! DEFINITION. The commands: the FilterType enumeration (rule R76), a command as the host presents it (rule R70), and one
constructor of Instr per row of the opcode table (rule R75). -/

namespace Sys2Proof

/-- The FilterType enumeration, in the order of rule R76 (24 members, conflict C2). -/
inductive FilterType where
  | lpf
  | hpf
  | bpfPeakq
  | bpf0db
  | notch
  | apf
  | lp1
  | hp1
  | peak
  | lshelf
  | hshelf
  | tilt
  | lrLp
  | lrHp
  | bwLp
  | bwHp
  | warmth
  | bright
  | presence
  | air
  | subbass
  | vocal
  | dcblock
  | unity
deriving DecidableEq, Repr

/-- A command: the command word and the five operand lanes, six 32-bit words presented together (rule R70). -/
structure Command where
  cw : BitVec 32
  a0 : F32
  a1 : F32
  a2 : F32
  a3 : F32
  a4 : F32
deriving DecidableEq, Repr

/-- The instructions. `inst` is the 8-bit instance field; the other arguments are the operand lanes that the command's row
names, in lane order (rules R72, R75). Lanes a command does not name are not part of it. -/
inductive Instr where
  /-- `COEF_DERIVE.LPF` -/
  | coefDeriveLpf (frequencyHz q gainDb sampleRateHz : F32)
  /-- `COEF_DERIVE.HPF` -/
  | coefDeriveHpf (frequencyHz q gainDb sampleRateHz : F32)
  /-- `COEF_DERIVE.BPF_PEAKQ` -/
  | coefDeriveBpfPeakq (frequencyHz q gainDb sampleRateHz : F32)
  /-- `COEF_DERIVE.BPF_0DB` -/
  | coefDeriveBpf0db (frequencyHz q gainDb sampleRateHz : F32)
  /-- `COEF_DERIVE.NOTCH` -/
  | coefDeriveNotch (frequencyHz q gainDb sampleRateHz : F32)
  /-- `COEF_DERIVE.APF` -/
  | coefDeriveApf (frequencyHz q gainDb sampleRateHz : F32)
  /-- `COEF_DERIVE.LP1` -/
  | coefDeriveLp1 (frequencyHz q gainDb sampleRateHz : F32)
  /-- `COEF_DERIVE.HP1` -/
  | coefDeriveHp1 (frequencyHz q gainDb sampleRateHz : F32)
  /-- `COEF_DERIVE.PEAK` -/
  | coefDerivePeak (frequencyHz q gainDb sampleRateHz : F32)
  /-- `COEF_DERIVE.LSHELF` -/
  | coefDeriveLshelf (frequencyHz q gainDb sampleRateHz : F32)
  /-- `COEF_DERIVE.HSHELF` -/
  | coefDeriveHshelf (frequencyHz q gainDb sampleRateHz : F32)
  /-- `COEF_DERIVE.TILT` -/
  | coefDeriveTilt (frequencyHz q gainDb sampleRateHz : F32)
  /-- `COEF_DERIVE.LR_LP` -/
  | coefDeriveLrLp (frequencyHz q gainDb sampleRateHz : F32)
  /-- `COEF_DERIVE.LR_HP` -/
  | coefDeriveLrHp (frequencyHz q gainDb sampleRateHz : F32)
  /-- `COEF_DERIVE.BW_LP` -/
  | coefDeriveBwLp (frequencyHz q gainDb sampleRateHz : F32)
  /-- `COEF_DERIVE.BW_HP` -/
  | coefDeriveBwHp (frequencyHz q gainDb sampleRateHz : F32)
  /-- `COEF_DERIVE.WARMTH` -/
  | coefDeriveWarmth (frequencyHz q gainDb sampleRateHz : F32)
  /-- `COEF_DERIVE.BRIGHT` -/
  | coefDeriveBright (frequencyHz q gainDb sampleRateHz : F32)
  /-- `COEF_DERIVE.PRESENCE` -/
  | coefDerivePresence (frequencyHz q gainDb sampleRateHz : F32)
  /-- `COEF_DERIVE.AIR` -/
  | coefDeriveAir (frequencyHz q gainDb sampleRateHz : F32)
  /-- `COEF_DERIVE.SUBBASS` -/
  | coefDeriveSubbass (frequencyHz q gainDb sampleRateHz : F32)
  /-- `COEF_DERIVE.VOCAL` -/
  | coefDeriveVocal (frequencyHz q gainDb sampleRateHz : F32)
  /-- `COEF_DERIVE.DCBLOCK` -/
  | coefDeriveDcblock (frequencyHz q gainDb sampleRateHz : F32)
  /-- `COEF_DERIVE.UNITY` -/
  | coefDeriveUnity (frequencyHz q gainDb sampleRateHz : F32)
  /-- `BQ_UPDATE.LPF` -/
  | bqUpdateLpf (inst : BitVec 8) (frequencyHz q gainDb sampleRateHz : F32)
  /-- `BQ_UPDATE.HPF` -/
  | bqUpdateHpf (inst : BitVec 8) (frequencyHz q gainDb sampleRateHz : F32)
  /-- `BQ_UPDATE.BPF_PEAKQ` -/
  | bqUpdateBpfPeakq (inst : BitVec 8) (frequencyHz q gainDb sampleRateHz : F32)
  /-- `BQ_UPDATE.BPF_0DB` -/
  | bqUpdateBpf0db (inst : BitVec 8) (frequencyHz q gainDb sampleRateHz : F32)
  /-- `BQ_UPDATE.NOTCH` -/
  | bqUpdateNotch (inst : BitVec 8) (frequencyHz q gainDb sampleRateHz : F32)
  /-- `BQ_UPDATE.APF` -/
  | bqUpdateApf (inst : BitVec 8) (frequencyHz q gainDb sampleRateHz : F32)
  /-- `BQ_UPDATE.LP1` -/
  | bqUpdateLp1 (inst : BitVec 8) (frequencyHz q gainDb sampleRateHz : F32)
  /-- `BQ_UPDATE.HP1` -/
  | bqUpdateHp1 (inst : BitVec 8) (frequencyHz q gainDb sampleRateHz : F32)
  /-- `BQ_UPDATE.PEAK` -/
  | bqUpdatePeak (inst : BitVec 8) (frequencyHz q gainDb sampleRateHz : F32)
  /-- `BQ_UPDATE.LSHELF` -/
  | bqUpdateLshelf (inst : BitVec 8) (frequencyHz q gainDb sampleRateHz : F32)
  /-- `BQ_UPDATE.HSHELF` -/
  | bqUpdateHshelf (inst : BitVec 8) (frequencyHz q gainDb sampleRateHz : F32)
  /-- `BQ_UPDATE.TILT` -/
  | bqUpdateTilt (inst : BitVec 8) (frequencyHz q gainDb sampleRateHz : F32)
  /-- `BQ_UPDATE.LR_LP` -/
  | bqUpdateLrLp (inst : BitVec 8) (frequencyHz q gainDb sampleRateHz : F32)
  /-- `BQ_UPDATE.LR_HP` -/
  | bqUpdateLrHp (inst : BitVec 8) (frequencyHz q gainDb sampleRateHz : F32)
  /-- `BQ_UPDATE.BW_LP` -/
  | bqUpdateBwLp (inst : BitVec 8) (frequencyHz q gainDb sampleRateHz : F32)
  /-- `BQ_UPDATE.BW_HP` -/
  | bqUpdateBwHp (inst : BitVec 8) (frequencyHz q gainDb sampleRateHz : F32)
  /-- `BQ_UPDATE.WARMTH` -/
  | bqUpdateWarmth (inst : BitVec 8) (frequencyHz q gainDb sampleRateHz : F32)
  /-- `BQ_UPDATE.BRIGHT` -/
  | bqUpdateBright (inst : BitVec 8) (frequencyHz q gainDb sampleRateHz : F32)
  /-- `BQ_UPDATE.PRESENCE` -/
  | bqUpdatePresence (inst : BitVec 8) (frequencyHz q gainDb sampleRateHz : F32)
  /-- `BQ_UPDATE.AIR` -/
  | bqUpdateAir (inst : BitVec 8) (frequencyHz q gainDb sampleRateHz : F32)
  /-- `BQ_UPDATE.SUBBASS` -/
  | bqUpdateSubbass (inst : BitVec 8) (frequencyHz q gainDb sampleRateHz : F32)
  /-- `BQ_UPDATE.VOCAL` -/
  | bqUpdateVocal (inst : BitVec 8) (frequencyHz q gainDb sampleRateHz : F32)
  /-- `BQ_UPDATE.DCBLOCK` -/
  | bqUpdateDcblock (inst : BitVec 8) (frequencyHz q gainDb sampleRateHz : F32)
  /-- `BQ_UPDATE.UNITY` -/
  | bqUpdateUnity (inst : BitVec 8) (frequencyHz q gainDb sampleRateHz : F32)
  /-- `BQ_SETCOEF` -/
  | bqSetcoef (inst : BitVec 8) (b0 b1 b2 a1 a2 : F32)
  /-- `BQ_PROCESS` -/
  | bqProcess (inst : BitVec 8) (input : F32)
  /-- `BQ_RESET` -/
  | bqReset (inst : BitVec 8)
  /-- `ENV_SETTIMES` -/
  | envSettimes (inst : BitVec 8) (attackMs releaseMs sampleRateHz : F32)
  /-- `ENV_PROCESS` -/
  | envProcess (inst : BitVec 8) (input : F32)
  /-- `ENV_RESET` -/
  | envReset (inst : BitVec 8)
  /-- `COMP_SETTIMES` -/
  | compSettimes (inst : BitVec 8) (attackMs releaseMs sampleRateHz : F32)
  /-- `COMP_PROCESS` -/
  | compProcess (inst : BitVec 8) (left right thresholdDb ratio kneeDb : F32)
  /-- `COMP_RESET` -/
  | compReset (inst : BitVec 8)
  /-- `DL_CONSTRUCT` -/
  | dlConstruct (inst : BitVec 8) (maxDelayMs sampleRateHz : F32)
  /-- `DL_SETRATE` -/
  | dlSetrate (inst : BitVec 8) (newRate maxDelayMs : F32)
  /-- `DL_PROCESS` -/
  | dlProcess (inst : BitVec 8) (input delayMs feedback : F32)
  /-- `DL_RESET` -/
  | dlReset (inst : BitVec 8)
deriving DecidableEq, Repr

end Sys2Proof
end

