-- ==== Sys2Proof/WellFormed.lean ====
section
/-! DEFINITION. Which instructions are legal on a machine with given instance counts (rule R77). Everything else that rule
R78 asks (opcode byte, reserved field, type code) is in the encoding and is checked by the decoder. -/

namespace Sys2Proof

/-- The instance counts `NUM_BQ`, `NUM_EF`, `NUM_COMP`, `NUM_DL` (rule R6). -/
structure Counts where
  bq : Nat
  ef : Nat
  comp : Nat
  dl : Nat
deriving DecidableEq, Repr

/-- The ranges rule R6 gives the counts. -/
def Counts.inRange (n : Counts) : Bool :=
  decide (1 ≤ n.bq ∧ n.bq ≤ 256) && decide (n.ef ≤ 256) && decide (1 ≤ n.comp ∧ n.comp ≤ 256) && decide (1 ≤ n.dl ∧ n.dl ≤ 256)

/-- The instance a command names exists (rule R77); `COEF_DERIVE` names none. -/
def Instr.wellFormed (n : Counts) (i : Instr) : Bool :=
  match i with
  | .coefDeriveLpf _ _ _ _ => true
  | .coefDeriveHpf _ _ _ _ => true
  | .coefDeriveBpfPeakq _ _ _ _ => true
  | .coefDeriveBpf0db _ _ _ _ => true
  | .coefDeriveNotch _ _ _ _ => true
  | .coefDeriveApf _ _ _ _ => true
  | .coefDeriveLp1 _ _ _ _ => true
  | .coefDeriveHp1 _ _ _ _ => true
  | .coefDerivePeak _ _ _ _ => true
  | .coefDeriveLshelf _ _ _ _ => true
  | .coefDeriveHshelf _ _ _ _ => true
  | .coefDeriveTilt _ _ _ _ => true
  | .coefDeriveLrLp _ _ _ _ => true
  | .coefDeriveLrHp _ _ _ _ => true
  | .coefDeriveBwLp _ _ _ _ => true
  | .coefDeriveBwHp _ _ _ _ => true
  | .coefDeriveWarmth _ _ _ _ => true
  | .coefDeriveBright _ _ _ _ => true
  | .coefDerivePresence _ _ _ _ => true
  | .coefDeriveAir _ _ _ _ => true
  | .coefDeriveSubbass _ _ _ _ => true
  | .coefDeriveVocal _ _ _ _ => true
  | .coefDeriveDcblock _ _ _ _ => true
  | .coefDeriveUnity _ _ _ _ => true
  | .bqUpdateLpf inst _ _ _ _ => decide (inst.toNat < n.bq)
  | .bqUpdateHpf inst _ _ _ _ => decide (inst.toNat < n.bq)
  | .bqUpdateBpfPeakq inst _ _ _ _ => decide (inst.toNat < n.bq)
  | .bqUpdateBpf0db inst _ _ _ _ => decide (inst.toNat < n.bq)
  | .bqUpdateNotch inst _ _ _ _ => decide (inst.toNat < n.bq)
  | .bqUpdateApf inst _ _ _ _ => decide (inst.toNat < n.bq)
  | .bqUpdateLp1 inst _ _ _ _ => decide (inst.toNat < n.bq)
  | .bqUpdateHp1 inst _ _ _ _ => decide (inst.toNat < n.bq)
  | .bqUpdatePeak inst _ _ _ _ => decide (inst.toNat < n.bq)
  | .bqUpdateLshelf inst _ _ _ _ => decide (inst.toNat < n.bq)
  | .bqUpdateHshelf inst _ _ _ _ => decide (inst.toNat < n.bq)
  | .bqUpdateTilt inst _ _ _ _ => decide (inst.toNat < n.bq)
  | .bqUpdateLrLp inst _ _ _ _ => decide (inst.toNat < n.bq)
  | .bqUpdateLrHp inst _ _ _ _ => decide (inst.toNat < n.bq)
  | .bqUpdateBwLp inst _ _ _ _ => decide (inst.toNat < n.bq)
  | .bqUpdateBwHp inst _ _ _ _ => decide (inst.toNat < n.bq)
  | .bqUpdateWarmth inst _ _ _ _ => decide (inst.toNat < n.bq)
  | .bqUpdateBright inst _ _ _ _ => decide (inst.toNat < n.bq)
  | .bqUpdatePresence inst _ _ _ _ => decide (inst.toNat < n.bq)
  | .bqUpdateAir inst _ _ _ _ => decide (inst.toNat < n.bq)
  | .bqUpdateSubbass inst _ _ _ _ => decide (inst.toNat < n.bq)
  | .bqUpdateVocal inst _ _ _ _ => decide (inst.toNat < n.bq)
  | .bqUpdateDcblock inst _ _ _ _ => decide (inst.toNat < n.bq)
  | .bqUpdateUnity inst _ _ _ _ => decide (inst.toNat < n.bq)
  | .bqSetcoef inst _ _ _ _ _ => decide (inst.toNat < n.bq)
  | .bqProcess inst _ => decide (inst.toNat < n.bq)
  | .bqReset inst => decide (inst.toNat < n.bq)
  | .envSettimes inst _ _ _ => decide (inst.toNat < n.ef)
  | .envProcess inst _ => decide (inst.toNat < n.ef)
  | .envReset inst => decide (inst.toNat < n.ef)
  | .compSettimes inst _ _ _ => decide (inst.toNat < n.comp)
  | .compProcess inst _ _ _ _ _ => decide (inst.toNat < n.comp)
  | .compReset inst => decide (inst.toNat < n.comp)
  | .dlConstruct inst _ _ => decide (inst.toNat < n.dl)
  | .dlSetrate inst _ _ => decide (inst.toNat < n.dl)
  | .dlProcess inst _ _ _ => decide (inst.toNat < n.dl)
  | .dlReset inst => decide (inst.toNat < n.dl)

end Sys2Proof
end

