-- ==== Sys2Proof/Decode.lean ====
section
/-! DEFINITION. The encoding of the commands (rules R71, R72, R75 to R78, R80): the decoder, total on any six words and
rejecting by name, and after it the encoder. -/

namespace Sys2Proof

/-- Why a command word is illegal (rule R78); the instance range of rule R77 is checked when the instance is looked up. -/
inductive DecodeError where
  /-- The opcode byte is not one of the fifteen. -/
  | unknownOpcode
  /-- `rsvd` is not 0. -/
  | reservedNotZero
  /-- Format P and `ftype` is not 0. -/
  | ftypeNotZero
  /-- Format T and `ftype` is 24 or more. -/
  | ftypeOutOfRange
  /-- `COEF_DERIVE` with `inst` other than 0. -/
  | instNotZero
deriving DecidableEq, Repr

/-- Bits 31:24, `unit ‖ func` (rule R71). -/
def opcodeByte (cw : BitVec 32) : BitVec 8 := cw.extractLsb' 24 8
/-- Bits 23:16 (rule R71). -/
def instField (cw : BitVec 32) : BitVec 8 := cw.extractLsb' 16 8
/-- Bits 15:8 (rule R71). -/
def rsvdField (cw : BitVec 32) : BitVec 8 := cw.extractLsb' 8 8
/-- Bits 7:0 (rule R71). -/
def ftypeField (cw : BitVec 32) : BitVec 8 := cw.extractLsb' 0 8

/-- The filter type of a type code (rule R76); codes 24 to 255 are reserved. -/
def FilterType.ofCode (code : BitVec 8) : Option FilterType :=
  match code.toNat with
  | 0 => some .lpf
  | 1 => some .hpf
  | 2 => some .bpfPeakq
  | 3 => some .bpf0db
  | 4 => some .notch
  | 5 => some .apf
  | 6 => some .lp1
  | 7 => some .hp1
  | 8 => some .peak
  | 9 => some .lshelf
  | 10 => some .hshelf
  | 11 => some .tilt
  | 12 => some .lrLp
  | 13 => some .lrHp
  | 14 => some .bwLp
  | 15 => some .bwHp
  | 16 => some .warmth
  | 17 => some .bright
  | 18 => some .presence
  | 19 => some .air
  | 20 => some .subbass
  | 21 => some .vocal
  | 22 => some .dcblock
  | 23 => some .unity
  | _ => none

/-- The instruction of `COEF_DERIVE.<T>` with its four operands. -/
def Instr.coefDerive (t : FilterType) (f q g sr : F32) : Instr :=
  match t with
  | .lpf => .coefDeriveLpf f q g sr
  | .hpf => .coefDeriveHpf f q g sr
  | .bpfPeakq => .coefDeriveBpfPeakq f q g sr
  | .bpf0db => .coefDeriveBpf0db f q g sr
  | .notch => .coefDeriveNotch f q g sr
  | .apf => .coefDeriveApf f q g sr
  | .lp1 => .coefDeriveLp1 f q g sr
  | .hp1 => .coefDeriveHp1 f q g sr
  | .peak => .coefDerivePeak f q g sr
  | .lshelf => .coefDeriveLshelf f q g sr
  | .hshelf => .coefDeriveHshelf f q g sr
  | .tilt => .coefDeriveTilt f q g sr
  | .lrLp => .coefDeriveLrLp f q g sr
  | .lrHp => .coefDeriveLrHp f q g sr
  | .bwLp => .coefDeriveBwLp f q g sr
  | .bwHp => .coefDeriveBwHp f q g sr
  | .warmth => .coefDeriveWarmth f q g sr
  | .bright => .coefDeriveBright f q g sr
  | .presence => .coefDerivePresence f q g sr
  | .air => .coefDeriveAir f q g sr
  | .subbass => .coefDeriveSubbass f q g sr
  | .vocal => .coefDeriveVocal f q g sr
  | .dcblock => .coefDeriveDcblock f q g sr
  | .unity => .coefDeriveUnity f q g sr

/-- The instruction of `BQ_UPDATE.<T> #inst` with its four operands. -/
def Instr.bqUpdate (t : FilterType) (inst : BitVec 8) (f q g sr : F32) : Instr :=
  match t with
  | .lpf => .bqUpdateLpf inst f q g sr
  | .hpf => .bqUpdateHpf inst f q g sr
  | .bpfPeakq => .bqUpdateBpfPeakq inst f q g sr
  | .bpf0db => .bqUpdateBpf0db inst f q g sr
  | .notch => .bqUpdateNotch inst f q g sr
  | .apf => .bqUpdateApf inst f q g sr
  | .lp1 => .bqUpdateLp1 inst f q g sr
  | .hp1 => .bqUpdateHp1 inst f q g sr
  | .peak => .bqUpdatePeak inst f q g sr
  | .lshelf => .bqUpdateLshelf inst f q g sr
  | .hshelf => .bqUpdateHshelf inst f q g sr
  | .tilt => .bqUpdateTilt inst f q g sr
  | .lrLp => .bqUpdateLrLp inst f q g sr
  | .lrHp => .bqUpdateLrHp inst f q g sr
  | .bwLp => .bqUpdateBwLp inst f q g sr
  | .bwHp => .bqUpdateBwHp inst f q g sr
  | .warmth => .bqUpdateWarmth inst f q g sr
  | .bright => .bqUpdateBright inst f q g sr
  | .presence => .bqUpdatePresence inst f q g sr
  | .air => .bqUpdateAir inst f q g sr
  | .subbass => .bqUpdateSubbass inst f q g sr
  | .vocal => .bqUpdateVocal inst f q g sr
  | .dcblock => .bqUpdateDcblock inst f q g sr
  | .unity => .bqUpdateUnity inst f q g sr

/-- Format P: `ftype` must be zero (rule R71). -/
def decodePlain (c : Command) (i : Instr) : Except DecodeError Instr :=
  if ftypeField c.cw = 0 then .ok i else .error .ftypeNotZero

/-- Format T: `ftype` selects one of the 24 filter types (rules R71, R76). -/
def decodeTyped (c : Command) (mk : FilterType → Instr) : Except DecodeError Instr :=
  match FilterType.ofCode (ftypeField c.cw) with
  | some t => .ok (mk t)
  | none => .error .ftypeOutOfRange

/-- The opcode map of rule R75, the reserved field being zero. -/
def decodeOpcode (c : Command) : Except DecodeError Instr :=
  let inst := instField c.cw
  match (opcodeByte c.cw).toNat with
  | 0x10 => if inst = 0 then decodeTyped c fun t => .coefDerive t c.a0 c.a1 c.a2 c.a3 else .error .instNotZero
  | 0x11 => decodeTyped c fun t => .bqUpdate t inst c.a0 c.a1 c.a2 c.a3
  | 0x12 => decodePlain c (.bqSetcoef inst c.a0 c.a1 c.a2 c.a3 c.a4)
  | 0x13 => decodePlain c (.bqProcess inst c.a0)
  | 0x14 => decodePlain c (.bqReset inst)
  | 0x20 => decodePlain c (.envSettimes inst c.a0 c.a1 c.a2)
  | 0x21 => decodePlain c (.envProcess inst c.a0)
  | 0x22 => decodePlain c (.envReset inst)
  | 0x30 => decodePlain c (.compSettimes inst c.a0 c.a1 c.a2)
  | 0x31 => decodePlain c (.compProcess inst c.a0 c.a1 c.a2 c.a3 c.a4)
  | 0x32 => decodePlain c (.compReset inst)
  | 0x40 => decodePlain c (.dlConstruct inst c.a0 c.a1)
  | 0x41 => decodePlain c (.dlSetrate inst c.a0 c.a1)
  | 0x42 => decodePlain c (.dlProcess inst c.a0 c.a1 c.a2)
  | 0x43 => decodePlain c (.dlReset inst)
  | _ => .error .unknownOpcode

/-- The instruction of a command, or why its command word is illegal whatever the instance counts (rule R78). Lanes the
command does not name are not read (rule R72). -/
def decode (c : Command) : Except DecodeError Instr :=
  if rsvdField c.cw = 0 then decodeOpcode c else .error .reservedNotZero

/-- The six words of an instruction given as one number, the first word in the least significant bits; every bit above
`nbits` is 0 (log 14). -/
def wordCommand (nbits w : Nat) : Command :=
  let v := w % 2 ^ nbits
  { cw := BitVec.ofNat 32 v, a0 := BitVec.ofNat 32 (v >>> 32), a1 := BitVec.ofNat 32 (v >>> 64)
    a2 := BitVec.ofNat 32 (v >>> 96), a3 := BitVec.ofNat 32 (v >>> 128), a4 := BitVec.ofNat 32 (v >>> 160) }

/-- The instruction the decoder reads from an opcode-table word, if it accepts it. -/
def decodeTableWord (nbits w : Nat) : Option Instr :=
  match decode (wordCommand nbits w) with
  | .ok i => some i
  | .error _ => none

/-- The type code of a filter type (rule R76). -/
def FilterType.code (t : FilterType) : BitVec 8 :=
  match t with
  | .lpf => 0
  | .hpf => 1
  | .bpfPeakq => 2
  | .bpf0db => 3
  | .notch => 4
  | .apf => 5
  | .lp1 => 6
  | .hp1 => 7
  | .peak => 8
  | .lshelf => 9
  | .hshelf => 10
  | .tilt => 11
  | .lrLp => 12
  | .lrHp => 13
  | .bwLp => 14
  | .bwHp => 15
  | .warmth => 16
  | .bright => 17
  | .presence => 18
  | .air => 19
  | .subbass => 20
  | .vocal => 21
  | .dcblock => 22
  | .unity => 23

/-- `CW = (opcode_byte << 24) | (inst << 16) | ftype`, the reserved field zero (rule R80). -/
def commandWord (opcode inst ftype : BitVec 8) : BitVec 32 := opcode ++ inst ++ (0 : BitVec 8) ++ ftype

/-- The six words of `COEF_DERIVE` with type `t` (rule R80: `inst` = 0). -/
def encodeCoefDerive (t : FilterType) (f q g sr : F32) : Command :=
  ⟨commandWord 0x10 0 t.code, f, q, g, sr, 0⟩

/-- The six words of `BQ_UPDATE` with type `t`. -/
def encodeBqUpdate (t : FilterType) (inst : BitVec 8) (f q g sr : F32) : Command :=
  ⟨commandWord 0x11 inst t.code, f, q, g, sr, 0⟩

/-- The six words of an instruction (rule R80), with zero in the lanes it does not name (log 15). -/
def encode (i : Instr) : Command :=
  match i with
  | .coefDeriveLpf f q g sr => encodeCoefDerive .lpf f q g sr
  | .coefDeriveHpf f q g sr => encodeCoefDerive .hpf f q g sr
  | .coefDeriveBpfPeakq f q g sr => encodeCoefDerive .bpfPeakq f q g sr
  | .coefDeriveBpf0db f q g sr => encodeCoefDerive .bpf0db f q g sr
  | .coefDeriveNotch f q g sr => encodeCoefDerive .notch f q g sr
  | .coefDeriveApf f q g sr => encodeCoefDerive .apf f q g sr
  | .coefDeriveLp1 f q g sr => encodeCoefDerive .lp1 f q g sr
  | .coefDeriveHp1 f q g sr => encodeCoefDerive .hp1 f q g sr
  | .coefDerivePeak f q g sr => encodeCoefDerive .peak f q g sr
  | .coefDeriveLshelf f q g sr => encodeCoefDerive .lshelf f q g sr
  | .coefDeriveHshelf f q g sr => encodeCoefDerive .hshelf f q g sr
  | .coefDeriveTilt f q g sr => encodeCoefDerive .tilt f q g sr
  | .coefDeriveLrLp f q g sr => encodeCoefDerive .lrLp f q g sr
  | .coefDeriveLrHp f q g sr => encodeCoefDerive .lrHp f q g sr
  | .coefDeriveBwLp f q g sr => encodeCoefDerive .bwLp f q g sr
  | .coefDeriveBwHp f q g sr => encodeCoefDerive .bwHp f q g sr
  | .coefDeriveWarmth f q g sr => encodeCoefDerive .warmth f q g sr
  | .coefDeriveBright f q g sr => encodeCoefDerive .bright f q g sr
  | .coefDerivePresence f q g sr => encodeCoefDerive .presence f q g sr
  | .coefDeriveAir f q g sr => encodeCoefDerive .air f q g sr
  | .coefDeriveSubbass f q g sr => encodeCoefDerive .subbass f q g sr
  | .coefDeriveVocal f q g sr => encodeCoefDerive .vocal f q g sr
  | .coefDeriveDcblock f q g sr => encodeCoefDerive .dcblock f q g sr
  | .coefDeriveUnity f q g sr => encodeCoefDerive .unity f q g sr
  | .bqUpdateLpf inst f q g sr => encodeBqUpdate .lpf inst f q g sr
  | .bqUpdateHpf inst f q g sr => encodeBqUpdate .hpf inst f q g sr
  | .bqUpdateBpfPeakq inst f q g sr => encodeBqUpdate .bpfPeakq inst f q g sr
  | .bqUpdateBpf0db inst f q g sr => encodeBqUpdate .bpf0db inst f q g sr
  | .bqUpdateNotch inst f q g sr => encodeBqUpdate .notch inst f q g sr
  | .bqUpdateApf inst f q g sr => encodeBqUpdate .apf inst f q g sr
  | .bqUpdateLp1 inst f q g sr => encodeBqUpdate .lp1 inst f q g sr
  | .bqUpdateHp1 inst f q g sr => encodeBqUpdate .hp1 inst f q g sr
  | .bqUpdatePeak inst f q g sr => encodeBqUpdate .peak inst f q g sr
  | .bqUpdateLshelf inst f q g sr => encodeBqUpdate .lshelf inst f q g sr
  | .bqUpdateHshelf inst f q g sr => encodeBqUpdate .hshelf inst f q g sr
  | .bqUpdateTilt inst f q g sr => encodeBqUpdate .tilt inst f q g sr
  | .bqUpdateLrLp inst f q g sr => encodeBqUpdate .lrLp inst f q g sr
  | .bqUpdateLrHp inst f q g sr => encodeBqUpdate .lrHp inst f q g sr
  | .bqUpdateBwLp inst f q g sr => encodeBqUpdate .bwLp inst f q g sr
  | .bqUpdateBwHp inst f q g sr => encodeBqUpdate .bwHp inst f q g sr
  | .bqUpdateWarmth inst f q g sr => encodeBqUpdate .warmth inst f q g sr
  | .bqUpdateBright inst f q g sr => encodeBqUpdate .bright inst f q g sr
  | .bqUpdatePresence inst f q g sr => encodeBqUpdate .presence inst f q g sr
  | .bqUpdateAir inst f q g sr => encodeBqUpdate .air inst f q g sr
  | .bqUpdateSubbass inst f q g sr => encodeBqUpdate .subbass inst f q g sr
  | .bqUpdateVocal inst f q g sr => encodeBqUpdate .vocal inst f q g sr
  | .bqUpdateDcblock inst f q g sr => encodeBqUpdate .dcblock inst f q g sr
  | .bqUpdateUnity inst f q g sr => encodeBqUpdate .unity inst f q g sr
  | .bqSetcoef inst b0 b1 b2 a1 a2 => ⟨commandWord 0x12 inst 0, b0, b1, b2, a1, a2⟩
  | .bqProcess inst input => ⟨commandWord 0x13 inst 0, input, 0, 0, 0, 0⟩
  | .bqReset inst => ⟨commandWord 0x14 inst 0, 0, 0, 0, 0, 0⟩
  | .envSettimes inst am rm sr => ⟨commandWord 0x20 inst 0, am, rm, sr, 0, 0⟩
  | .envProcess inst input => ⟨commandWord 0x21 inst 0, input, 0, 0, 0, 0⟩
  | .envReset inst => ⟨commandWord 0x22 inst 0, 0, 0, 0, 0, 0⟩
  | .compSettimes inst am rm sr => ⟨commandWord 0x30 inst 0, am, rm, sr, 0, 0⟩
  | .compProcess inst l r thr ratio knee => ⟨commandWord 0x31 inst 0, l, r, thr, ratio, knee⟩
  | .compReset inst => ⟨commandWord 0x32 inst 0, 0, 0, 0, 0, 0⟩
  | .dlConstruct inst ms sr => ⟨commandWord 0x40 inst 0, ms, sr, 0, 0, 0⟩
  | .dlSetrate inst rate ms => ⟨commandWord 0x41 inst 0, rate, ms, 0, 0, 0⟩
  | .dlProcess inst input ms fb => ⟨commandWord 0x42 inst 0, input, ms, fb, 0, 0⟩
  | .dlReset inst => ⟨commandWord 0x43 inst 0, 0, 0, 0, 0, 0⟩

end Sys2Proof
end

