-- ==== Sys2Proof/Machine/Numerics.lean ====
section
/-! DEFINITION. Binary32 arithmetic (rules R100 to R110, R114). A finite value is an exact whole number of units of 2^-149,
the least positive binary32 value; every operation computes exactly on such numbers and rounds once, to nearest even. -/

namespace Sys2Proof.Machine

/-! ### The fields of a pattern (rule R100) -/

/-- The sign bit. -/
def fsign (x : F32) : Bool := x.msb
/-- The exponent field, bits 30:23. -/
def fexpo (x : F32) : Nat := (x.toNat / 2 ^ 23) % 2 ^ 8
/-- The fraction field, bits 22:0. -/
def ffrac (x : F32) : Nat := x.toNat % 2 ^ 23
/-- Bits 30:0; as a number it grows with the magnitude. -/
def fmag (x : F32) : Nat := x.toNat % 2 ^ 31

def isNaN (x : F32) : Bool := decide (0x7F800000 < fmag x)
def isInf (x : F32) : Bool := decide (fmag x = 0x7F800000)
def isZero (x : F32) : Bool := decide (fmag x = 0)
def isFinite (x : F32) : Bool := decide (fmag x < 0x7F800000)

/-- The magnitude of a finite value in units of 2^-149 (subnormals included); for an infinity, 2^128 in the same units. -/
def magUnits (x : F32) : Nat :=
  if fexpo x = 0 then ffrac x else (2 ^ 23 + ffrac x) * 2 ^ (fexpo x - 1)

/-- A finite value in units of 2^-149. -/
def units (x : F32) : Int := if fsign x then -(magUnits x : Int) else (magUnits x : Int)

/-- The pattern with a sign and a magnitude (bits 30:0). -/
def pack (s : Bool) (m : Nat) : F32 := BitVec.ofNat 32 ((if s then 2 ^ 31 else 0) + m)

/-- Bits 30:0 of an infinity. -/
def infMag : Nat := 0x7F800000

/-- Zero with a sign. -/
def fzero (s : Bool) : F32 := pack s 0
/-- Infinity with a sign. -/
def finf (s : Bool) : F32 := pack s infMag

/-! ### Literals (rule R105) -/

/-- 1e-11, the biquad flush threshold. -/
def litBiquadFlush : F32 := 0x2D2FEBFF
/-- 1e-15, the envelope flush threshold. -/
def litEnvFlush : F32 := 0x26901D7D
/-- 1e-10, the dB conversion floor test. -/
def litDbTest : F32 := 0x2EDBE6FF
/-- −100.0, the dB floor. -/
def litDbFloor : F32 := 0xC2C80000
/-- 0.001 -/
def lit0p001 : F32 := 0x3A83126F
/-- 0.499 -/
def lit0p499 : F32 := 0x3EFF7CEE
/-- 1.0 -/
def litOne : F32 := 0x3F800000
/-- −1.0 -/
def litNegOne : F32 := 0xBF800000
/-- 1000.0 -/
def lit1000 : F32 := 0x447A0000
/-- 20.0 -/
def lit20 : F32 := 0x41A00000
/-- 40.0 -/
def lit40 : F32 := 0x42200000
/-- 2.0 -/
def litTwo : F32 := 0x40000000
/-- −2.0, the 2.0 of rule R105 with the sign bit set (log 18) -/
def litNegTwo : F32 := 0xC0000000
/-- 0.5 -/
def litHalf : F32 := 0x3F000000
/-- `INV_SQRT2` = 1/√2 -/
def litInvSqrt2 : F32 := 0x3F3504F3
/-- 0.6 -/
def lit0p6 : F32 := 0x3F19999A
/-- 0.7 -/
def lit0p7 : F32 := 0x3F333333
/-- 0.8 -/
def lit0p8 : F32 := 0x3F4CCCCD
/-- 1.5 -/
def lit1p5 : F32 := 0x3FC00000
/-- 3.0 -/
def litThree : F32 := 0x40400000
/-- `TWO_PI` -/
def litTwoPi : F32 := 0x40C90FDB
/-- +0.0 -/
def litZero : F32 := 0x00000000

/-! ### Rounding (rule R101) -/

/-- Bits 30:0 of the non-negative number `num / den` units rounded to binary32, to nearest, ties to even: the last place
is worth 2^k units, the quotient is cut there and raised by one when the rest is above half, or half and the quotient
odd. A carry into the next binade is the carry of the addition; past the largest finite value the result is an infinity. -/
def roundMag (num den : Nat) : Nat :=
  let k := Nat.log2 (num / den) - 23
  let d := den * 2 ^ k
  let t := num / d
  let r := num % d
  let up := if d < 2 * r ∨ (2 * r = d ∧ t % 2 = 1) then 1 else 0
  min (k * 2 ^ 23 + t + up) infMag

/-- A whole number of units rounded to binary32; zero gives +0.0. -/
def roundInt (n : Int) : F32 := pack (decide (n < 0)) (roundMag n.natAbs 1)

/-- The NaN an operation gives for its operands: some NaN, which one is free (rule R103, log 7). -/
def nanOf (op : FOp) (a b : F32) : F32 :=
  if isNaN (Config.nanChoice op a b) then Config.nanChoice op a b else 0x7FC00000

/-! ### The operations of rule R101 -/

/-- The unary minus: flips the sign bit and does not round (rule R201). -/
def fneg (x : F32) : F32 := pack (!fsign x) (fmag x)

/-- The sum of two finite values. An exact zero is +0.0 unless both operands are negative zeros. -/
def faddFinite (a b : F32) : F32 :=
  if units a + units b = 0 then fzero (fsign a && fsign b) else roundInt (units a + units b)

/-- `a + b` (rule R101). -/
def fadd (a b : F32) : F32 :=
  if isNaN a || isNaN b then nanOf .add a b
  else if isInf a then (if isInf b && (fsign a != fsign b) then nanOf .add a b else a)
  else if isInf b then b
  else faddFinite a b

/-- `a − b` (rule R101). -/
def fsub (a b : F32) : F32 :=
  if isNaN a || isNaN b then nanOf .sub a b
  else if isInf a then (if isInf b && (fsign a == fsign b) then nanOf .sub a b else a)
  else if isInf b then fneg b
  else faddFinite a (fneg b)

/-- `a · b` (rule R101). -/
def fmul (a b : F32) : F32 :=
  if isNaN a || isNaN b then nanOf .mul a b
  else if (isInf a && isZero b) || (isZero a && isInf b) then nanOf .mul a b
  else if isInf a || isInf b then finf (fsign a != fsign b)
  else pack (fsign a != fsign b) (roundMag (magUnits a * magUnits b) (2 ^ 149))

/-- `a / b` (rule R101): `x / 0` is an infinity for non-zero x, `0 / 0` and `Inf / Inf` are NaN. -/
def fdiv (a b : F32) : F32 :=
  if isNaN a || isNaN b then nanOf .div a b
  else if (isInf a && isInf b) || (isZero a && isZero b) then nanOf .div a b
  else if isInf a || isZero b then finf (fsign a != fsign b)
  else if isInf b then fzero (fsign a != fsign b)
  else pack (fsign a != fsign b) (roundMag (magUnits a * 2 ^ 149) (magUnits b))

/-- The largest r + (a number below 2^bits) whose square is at most n, found bit by bit from the top. -/
def isqrtBits : Nat → Nat → Nat → Nat
  | 0, _, r => r
  | b + 1, n, r => if (r + 2 ^ b) * (r + 2 ^ b) ≤ n then isqrtBits b n (r + 2 ^ b) else isqrtBits b n r

/-- The whole part of the square root of a number below 2^428. -/
def isqrt (n : Nat) : Nat := isqrtBits 214 n 0

/-- `fsqrt` (rules R101, R114). The root of m units is the root of m·2^149, in units; its whole part, with one half added
when it is not exact, rounds as the root itself does, since the last place is worth at least 2^51 units. -/
def fsqrt (a : F32) : F32 :=
  if isNaN a then nanOf .sqrt a a
  else if isZero a then a
  else if fsign a then nanOf .sqrt a a
  else if isInf a then a
  else
    let n := magUnits a * 2 ^ 149
    let s := isqrt n
    pack false (roundMag (2 * s + (if s * s = n then 0 else 1)) 2)

/-! ### The exact primitives (rules R106, R107, R109, R110) -/

/-- `fabs`: the sign bit cleared (rule R106). -/
def fabs (x : F32) : F32 := pack false (fmag x)

/-- A number that orders the values that are no NaN; both zeros have 0. -/
def fkey (x : F32) : Int := if fsign x then -(fmag x : Int) else (fmag x : Int)

/-- `fmax` (rule R107); which of two different zeros is free (log 8). -/
def fmax (a b : F32) : F32 :=
  if isNaN a then (if isNaN b then nanOf .max a b else b)
  else if isNaN b || a == b then a
  else if fkey a = fkey b then (if Config.zeroChoice .max a b then a else b)
  else if fkey a < fkey b then b else a

/-- `fmin` (rule R107); which of two different zeros is free (log 8). -/
def fmin (a b : F32) : F32 :=
  if isNaN a then (if isNaN b then nanOf .min a b else b)
  else if isNaN b || a == b then a
  else if fkey a = fkey b then (if Config.zeroChoice .min a b then a else b)
  else if fkey a < fkey b then a else b

/-- The value 1.0 in units of 2^-149. -/
abbrev oneUnits : Nat := 2 ^ 149

/-- The integral value with magnitude `n` and the sign of `x`, a zero too (log 19: every use is inside `f2n`). -/
def integralLike (x : F32) (n : Nat) : F32 := pack (fsign x) (roundMag (n * oneUnits) 1)

/-- The magnitude rounded down to a whole number. -/
def magDown (x : F32) : Nat := magUnits x / oneUnits
/-- The magnitude rounded up to a whole number. -/
def magUp (x : F32) : Nat := (magUnits x + (oneUnits - 1)) / oneUnits

/-- `ffloor` (rule R109). -/
def ffloor (x : F32) : F32 :=
  if isNaN x || isInf x || isZero x then x
  else integralLike x (if fsign x then magUp x else magDown x)

/-- `fceil` (rule R109). -/
def fceil (x : F32) : F32 :=
  if isNaN x || isInf x || isZero x then x
  else integralLike x (if fsign x then magDown x else magUp x)

/-- `f2n`, binary32 to natural number, saturating (rule R110). -/
def f2n (v : F32) : Nat :=
  if isNaN v then 0
  else if fsign v then 0
  else min (magDown v) 4294967295

end Sys2Proof.Machine
end

