-- ==== Sys2Proof/Machine/Flags.lean ====
section
/-! DEFINITION. The hardware has no flags (rule R26): the data-dependent choices inside a command are computed and consumed
within it. This file holds what those choices are made of: the ordered comparisons, and the denormal guard. -/

namespace Sys2Proof.Machine

/-- `a < b`, ordered: false when either is a NaN (rule R106). -/
def flt (a b : F32) : Bool := !isNaN a && !isNaN b && decide (fkey a < fkey b)
/-- `a > b` (rule R106). -/
def fgt (a b : F32) : Bool := flt b a
/-- `a ≤ b` (rule R106). -/
def fle (a b : F32) : Bool := !isNaN a && !isNaN b && decide (fkey a ≤ fkey b)
/-- `a ≥ b` (rule R106). -/
def fge (a b : F32) : Bool := fle b a

/-- The denormal guard: `+0.0` if `fabs(v) < t`, else `v` (rule R108). -/
def flush (v t : F32) : F32 := if flt (fabs v) t then litZero else v

/-- The signal is rising: `|input|` exceeds the envelope, strictly (rule R202). -/
def rising (a env : F32) : Bool := fgt a env

/-- The soft-knee region of rule R223, with `half` = knee / 2. -/
def inSoftKnee (inDb thr half knee : F32) : Bool :=
  fgt knee litZero && flt (fsub thr half) inDb && flt inDb (fadd thr half)

/-- The region above the knee of rule R223. -/
def aboveKnee (inDb thr half : F32) : Bool := fge inDb (fadd thr half)

end Sys2Proof.Machine
end

