-- ==== Sys2Proof/Machine/State.lean ====
section
/-! DEFINITION. The state of the machine as plain data (rules R20 to R40), the reasons a step can stop, and the state after
power-on reset (rules R39, R290). -/

namespace Sys2Proof.Machine

/-- A BiquadCoefficients record: five normalised values; a0 is implicitly 1 (rules R22, R23). -/
structure Coefs where
  b0 : F32
  b1 : F32
  b2 : F32
  a1 : F32
  a2 : F32
deriving DecidableEq, Repr

/-- A biquad stage `bq[i]`: four history cells (rule R21), five coefficient registers and their mark (rule R22). -/
structure Biquad where
  x1 : F32
  x2 : F32
  y1 : F32
  y2 : F32
  coef : Coefs
  coefWritten : Bool
deriving DecidableEq, Repr

/-- An envelope follower: the envelope (rule R29), two coefficient registers and their mark (rule R30). -/
structure Follower where
  env : F32
  attackCoeff : F32
  releaseCoeff : F32
  timesWritten : Bool
deriving DecidableEq, Repr

/-- A compressor: its private follower and nothing more (rule R32). -/
structure Compressor where
  ef : Follower
deriving DecidableEq, Repr

/-- A delay memory: (sample index, sample) pairs, indices strictly rising, no sample equal to what an unlisted index reads
as. The unit of addressing is one whole sample (rules R50, R52; log 12). -/
abbrev SampleMem := List (Nat × F32)

/-- A delay line `dl[i]` (rules R34, R36). `choices` is the model's own: how many times the line has taken a choice that rule
R246 leaves open (log 9). -/
structure DelayLine where
  configured : Bool
  len : Nat
  rate : F32
  wpos : Nat
  buf : SampleMem
  choices : Nat
deriving DecidableEq, Repr

/-- The response to a command: the result lanes it defines, none, R0, or R0 to R4 (rules R70, R73). -/
inductive Response where
  | empty
  | value (r0 : F32)
  | coefs (c : Coefs)
deriving DecidableEq, Repr

/-- The whole state: the four arrays of instances (rule R20), the plain-data parameters of rule R6, and the model's own two
fields, the commands the host is going to issue (log 1) and the response to the last one completed (log 2). -/
structure State where
  bq : List Biquad
  ef : List Follower
  comp : List Compressor
  dl : List DelayLine
  params : Params
  port : List Command
  response : Option Response
deriving DecidableEq, Repr

/-- The hardware raises no exception (rule R270); a fault is the model's own. -/
inductive Fault where
  /-- Raised by a delay line's read or write of a sample index outside `0 .. len−1`, which rule R54 does not define. Safe:
  no state that meets the invariant of rule R35 raises it (log 13). -/
  | noSuchCell
deriving DecidableEq, Repr

/-- The model refusals of rule R277; the state is unchanged and there is no response. All are safe: the model stops. -/
inductive Refusal where
  /-- Raised by the decoder for an illegal command word, and by every command whose instance does not exist (rules R77, R78). -/
  | illegalCommand
  /-- Raised by `BQ_PROCESS`, `ENV_PROCESS` and `COMP_PROCESS` on registers nothing has written (rules R183, R202, R222,
  R277, R291). -/
  | unwrittenCoefficients
  /-- Raised by `DL_PROCESS`, `DL_RESET` and `DL_SETRATE` on a line no `DL_CONSTRUCT` has configured (rule R240). -/
  | unconfigured
  /-- Raised by `DL_CONSTRUCT` and `DL_SETRATE` whose length exceeds `DL_MAX_LEN` (rule R243). -/
  | overCapacity
  /-- Raised by an arm of exec whose instruction has no meaning yet (there is none). -/
  | notModelled (mnemonic : String)
deriving DecidableEq, Repr

/-- A stage at power-on: history +0.0, coefficients unwritten (rules R21, R22, R290; the register values are log 10). -/
def Biquad.powerOn : Biquad := ⟨0, 0, 0, 0, ⟨0, 0, 0, 0, 0⟩, false⟩

/-- A follower at power-on: envelope +0.0, coefficients unwritten (rules R29, R30, R290; the register values are log 10). -/
def Follower.powerOn : Follower := ⟨0, 0, 0, false⟩

/-- A compressor at power-on (rule R32). -/
def Compressor.powerOn : Compressor := ⟨Follower.powerOn⟩

/-- A delay line at power-on: unconfigured (rules R36, R290; the values of its other cells are log 11). -/
def DelayLine.powerOn : DelayLine := ⟨false, 0, 0, 0, [], 0⟩

/-- The suggested defaults of rule R6 (log 4). -/
def defaultParams : Params where
  dlMaxLen := 262144
  charShelfSide := ⟨.low, .high, .high, .low⟩
  dcblockFreqHz := 0x41A00000
  dcblockQ := 0x3F34FDF4
  bpfGainAssignment := .asWritten
  onepoleKReading := .asWritten

/-- The machine after power-on with given instance counts and parameters: every instance constructed (rule R290), no command
waiting, no response yet. -/
def State.powerOn (n : Counts) (p : Params) : State where
  bq := List.replicate n.bq Biquad.powerOn
  ef := List.replicate n.ef Follower.powerOn
  comp := List.replicate n.comp Compressor.powerOn
  dl := List.replicate n.dl DelayLine.powerOn
  params := p
  port := []
  response := none

/-- The machine after power-on reset, with the suggested counts and parameters of rule R6 (log 4). -/
def State.reset : State := State.powerOn ⟨2, 1, 1, 2⟩ defaultParams

/-- The instance counts of a machine: how many of each unit it holds (rule R6). -/
def State.counts (s : State) : Counts := ⟨s.bq.length, s.ef.length, s.comp.length, s.dl.length⟩

end Sys2Proof.Machine
end

