-- ==== Sys2Proof/Machine/Operands.lean ====
section
/-! DEFINITION. What the commands compute from their operand lanes before they touch a state cell. There is one operand
form: a lane is a binary32 value taken as it is (rule R72). -/

namespace Sys2Proof.Machine

/-! ### The prelude of a derivation (rules R131 to R134) -/

/-- The frequency clamp (rule R131). -/
def clampf (freq sr : F32) : F32 := fmin (fmax freq litOne) (fmul lit0p499 sr)

/-- The transient FilterContext: clamped frequency, ω0, cos ω0, sin ω0 (rule R132). -/
structure FilterContext where
  f : F32
  w0 : F32
  cs : F32
  sn : F32
deriving DecidableEq, Repr

/-- ω0 = (2π · f) / sr (rule R132). -/
def omega (f sr : F32) : F32 := fdiv (fmul litTwoPi f) sr

/-- The FilterContext of a frequency and a sample rate (rule R132). NUM sees the bits of w0 even where it is a NaN, and may tell
two NaNs apart: the model's choice between rules R103 and R104 (log 20). -/
def filterContext (N : Numerics) (freq sr : F32) : FilterContext :=
  let f := clampf freq sr
  let w0 := omega f sr
  { f := f, w0 := w0, cs := N.fcos w0, sn := N.fsin w0 }

/-- `alpha(Q) = sn / (2.0 · Q)` (rule R133). -/
def alpha (x : FilterContext) (q : F32) : F32 := fdiv x.sn (fmul litTwo q)

/-- `gainA(g) = fpow10(g / 40.0)` (rule R133; a NaN operand of NUM: log 20). -/
def gainA (N : Numerics) (g : F32) : F32 := N.fpow10 (fdiv g lit40)

/-- `chargain(g) = fpow10(fmax(g, 3.0) / 40.0)` (41, section 7). A NaN gain acts as 3.0, so NUM sees no NaN here. -/
def chargain (N : Numerics) (g : F32) : F32 := N.fpow10 (fdiv (fmax g litThree) lit40)

/-- The five divisions by a0 with which every derivation ends (rule R134). -/
def normalise (r : RawCoefs) : Coefs :=
  ⟨fdiv r.b0r r.a0r, fdiv r.b1r r.a0r, fdiv r.b2r r.a0r, fdiv r.a1r r.a0r, fdiv r.a2r r.a0r⟩

/-! ### The dB helpers (rules R112, R113) -/

/-- `db_to_lin` (rule R112; a NaN operand of NUM: log 20). -/
def dbToLin (N : Numerics) (d : F32) : F32 := N.fpow10 (fdiv d lit20)

/-- `lin_to_db` (rule R113). A NaN fails the comparison, so NUM sees no NaN here. -/
def linToDb (N : Numerics) (e : F32) : F32 := if fgt e litDbTest then fmul lit20 (N.flog10 e) else litDbFloor

/-! ### Times, lengths, delays -/

/-- The coefficient of a time constant: `fexp(−(1.0 / ((ms · 0.001) · sr)))` (rule R201; a NaN operand of
NUM: log 20). -/
def timeCoeff (N : Numerics) (ms sr : F32) : F32 := N.fexp (fneg (fdiv litOne (fmul (fmul ms lit0p001) sr)))

/-- The buffer length of a maximal delay (rule R241). -/
def dlLength (maxMs sr : F32) : Nat := f2n (fceil (fdiv (fmul maxMs sr) lit1000)) + 1

/-- The delay in samples, clamped to `L − 1` (rule R248). -/
def delaySamples (ms rate : F32) (L : Nat) : Nat := min (f2n (ffloor (fdiv (fmul ms rate) lit1000))) (L - 1)

/-- The read position `(w + L − d) mod L` (rule R249). -/
def readPos (w L d : Nat) : Nat := (w + L - d) % L

/-- The next write cursor `(w + 1) mod L` (rule R111). -/
def nextPos (w L : Nat) : Nat := (w + 1) % L

end Sys2Proof.Machine
end

