-- ==== Sys2Proof/Machine/Coef.lean ====
section
/-! DEFINITION. The Coefficient Engine (rules R130 to R159): the equations of the filter types, and one flat dispatch over
the enumeration (rule R161). -/

namespace Sys2Proof.Machine

/-- The six raw values with the denominator `den2(al)` shared by the 2-pole types (41, section 3). -/
def overDen2 (cs al b0r b1r b2r : F32) : RawCoefs :=
  ⟨b0r, b1r, b2r, fadd litOne al, fmul litNegTwo cs, fsub litOne al⟩

/-- The low-pass equations (rule R136). -/
def lowPass (cs al : F32) : Coefs :=
  let b1r := fsub litOne cs
  let b0r := fdiv b1r litTwo
  normalise (overDen2 cs al b0r b1r b0r)

/-- The high-pass equations (rule R137). -/
def highPass (cs al : F32) : Coefs :=
  let t := fadd litOne cs
  let b0r := fdiv t litTwo
  normalise (overDen2 cs al b0r (fneg t) b0r)

/-- The band-pass with numerator `s`, +0.0, `−s` (rules R138, R139). -/
def bandPass (cs al s : F32) : Coefs := normalise (overDen2 cs al s litZero (fneg s))

/-- The notch equations (rule R140). -/
def notch (cs al : F32) : Coefs := normalise (overDen2 cs al litOne (fmul litNegTwo cs) litOne)

/-- The all-pass equations (rule R141). -/
def allPass (cs al : F32) : Coefs := normalise (overDen2 cs al (fsub litOne al) (fmul litNegTwo cs) (fadd litOne al))

/-- `k` of the 1-pole types, by the reading of `ONEPOLE_K_READING` (rule R142, conflict C4). -/
def onePoleK (N : Numerics) (reading : OnepoleKReading) (w0 : F32) : F32 :=
  match reading with
  | .asWritten => fdiv (N.ftan w0) litTwo
  | .halfAngle => N.ftan (fdiv w0 litTwo)

/-- The first-order low-pass (rule R142). -/
def onePoleLow (k : F32) : Coefs := normalise ⟨k, k, litZero, fadd litOne k, fsub k litOne, litZero⟩

/-- The first-order high-pass (rule R143). -/
def onePoleHigh (k : F32) : Coefs := normalise ⟨litOne, litNegOne, litZero, fadd litOne k, fsub k litOne, litZero⟩

/-- `peak(al, A)` (rule R144). -/
def peak (cs al A : F32) : Coefs :=
  normalise ⟨fadd litOne (fmul al A), fmul litNegTwo cs, fsub litOne (fmul al A),
    fadd litOne (fdiv al A), fmul litNegTwo cs, fsub litOne (fdiv al A)⟩

/-- The intermediate values shared by the two shelves (rules R145, R146). -/
structure ShelfTerms where
  beta : F32
  Ap : F32
  Am : F32
  P : F32
  M : F32
deriving DecidableEq, Repr

/-- `sA beta Ap Am P M` of rule R145. -/
def shelfTerms (cs al A : F32) : ShelfTerms :=
  let sA := fsqrt A
  let Ap := fadd A litOne
  let Am := fsub A litOne
  { beta := fmul (fmul litTwo sA) al, Ap := Ap, Am := Am
    P := fsub Ap (fmul Am cs), M := fadd Ap (fmul Am cs) }

/-- `lshelf(al, A)` (rule R145). -/
def lowShelf (cs al A : F32) : Coefs :=
  let h := shelfTerms cs al A
  normalise ⟨fmul A (fadd h.P h.beta), fmul (fmul litTwo A) (fsub h.Am (fmul h.Ap cs)), fmul A (fsub h.P h.beta),
    fadd h.M h.beta, fmul litNegTwo (fadd h.Am (fmul h.Ap cs)), fsub h.M h.beta⟩

/-- `hshelf(al, A)` (rule R146). -/
def highShelf (cs al A : F32) : Coefs :=
  let h := shelfTerms cs al A
  normalise ⟨fmul A (fadd h.M h.beta), fneg (fmul (fmul litTwo A) (fadd h.Am (fmul h.Ap cs))), fmul A (fsub h.M h.beta),
    fadd h.P h.beta, fmul litTwo (fsub h.Am (fmul h.Ap cs)), fsub h.P h.beta⟩

/-- The shelf of a side. -/
def shelf (side : ShelfSide) (cs al A : F32) : Coefs :=
  match side with
  | .low => lowShelf cs al A
  | .high => highShelf cs al A

/-- The values `TILT_RAW` may depend on, for a context, q and gainDb (rule R147). It sees their bits, and may tell two NaNs
apart (log 20). -/
def tiltArgs (N : Numerics) (x : FilterContext) (q g : F32) : TiltArgs :=
  let At := N.fpow10 (fdiv g lit20)
  { f := x.f, w0 := x.w0, cs := x.cs, sn := x.sn, al := alpha x q, A := gainA N g, At := At, sqrtAt := fsqrt At }

/-- The numerator scale of `BPF_PEAKQ` under each assignment (rule R138, conflict C1). -/
def bpfPeakqScale (a : BpfGainAssignment) (q al : F32) : F32 :=
  match a with
  | .asWritten => al
  | .asNamed => fmul q al

/-- The numerator scale of `BPF_0DB` under each assignment (rule R139, conflict C1). -/
def bpf0dbScale (a : BpfGainAssignment) (q al : F32) : F32 :=
  match a with
  | .asWritten => fmul q al
  | .asNamed => al

/-- `derive(T, frequencyHz, q, gainDb, sampleRateHz)` (rule R130), for any numerics record, `TILT_RAW` and parameters. -/
def derive (P : Params) (N : Numerics) (tilt : TiltArgs → RawCoefs) (t : FilterType) (freq q g sr : F32) : Coefs :=
  let x := filterContext N freq sr
  match t with
  | .lpf => lowPass x.cs (alpha x q)
  | .hpf => highPass x.cs (alpha x q)
  | .bpfPeakq => bandPass x.cs (alpha x q) (bpfPeakqScale P.bpfGainAssignment q (alpha x q))
  | .bpf0db => bandPass x.cs (alpha x q) (bpf0dbScale P.bpfGainAssignment q (alpha x q))
  | .notch => notch x.cs (alpha x q)
  | .apf => allPass x.cs (alpha x q)
  | .lp1 => onePoleLow (onePoleK N P.onepoleKReading x.w0)
  | .hp1 => onePoleHigh (onePoleK N P.onepoleKReading x.w0)
  | .peak => peak x.cs (alpha x q) (gainA N g)
  | .lshelf => lowShelf x.cs (alpha x q) (gainA N g)
  | .hshelf => highShelf x.cs (alpha x q) (gainA N g)
  | .tilt => normalise (tilt (tiltArgs N x q g))
  | .lrLp => lowPass x.cs (alpha x litHalf)
  | .lrHp => highPass x.cs (alpha x litHalf)
  | .bwLp => lowPass x.cs (alpha x litInvSqrt2)
  | .bwHp => highPass x.cs (alpha x litInvSqrt2)
  | .warmth => shelf P.charShelfSide.warmth x.cs (alpha x lit0p6) (chargain N g)
  | .bright => shelf P.charShelfSide.bright x.cs (alpha x lit0p7) (chargain N g)
  | .presence => peak x.cs (alpha x lit1p5) (chargain N g)
  | .air => shelf P.charShelfSide.air x.cs (alpha x litHalf) (chargain N g)
  | .subbass => shelf P.charShelfSide.subbass x.cs (alpha x lit0p8) (chargain N g)
  | .vocal => peak x.cs (alpha x litTwo) (chargain N g)
  | .dcblock =>
    let y := filterContext N P.dcblockFreqHz sr
    highPass y.cs (alpha y P.dcblockQ)
  | .unity => normalise ⟨litOne, litZero, litZero, litOne, litZero, litZero⟩

/-- `derive` of this hardware: its parameters, its NUM, its TILT_RAW. -/
def deriveHw (P : Params) (t : FilterType) (freq q g sr : F32) : Coefs :=
  derive P Config.num Config.tiltRaw t freq q g sr

end Sys2Proof.Machine
end

