-- ==== Sys2Proof/Machine/Ops.lean ====
section
/-! DEFINITION. The named operations over the state: the command port and the response, the four arrays of instances, the
delay memories. There is no taking of an exception and no return from one: the hardware has none (rules R270, R272 to R275);
in their place stand the model refusals of rule R277, each raised where its rule says. -/

namespace Sys2Proof.Machine

/-- What one command ends in. -/
abbrev Result := Host.Outcome State Fault Refusal

/-! ### The port and the response (rule R70) -/

/-- The host's next command, and the machine with that command taken off the port; none when no command waits. -/
def State.accept (s : State) : Option (Command × State) :=
  match s.port with
  | [] => none
  | c :: rest => some (c, { s with port := rest })

/-- The machine with a command put before all others on the port. -/
def State.issue (s : State) (c : Command) : State := { s with port := c :: s.port }

/-- The command completes with this response (rules R70, R73). -/
def State.respond (s : State) (r : Response) : State := { s with response := some r }

/-! ### The instances (rules R20, R77) -/

def State.setBq (s : State) (i : BitVec 8) (b : Biquad) : State := { s with bq := s.bq.set i.toNat b }
def State.setEf (s : State) (i : BitVec 8) (e : Follower) : State := { s with ef := s.ef.set i.toNat e }
def State.setComp (s : State) (i : BitVec 8) (c : Compressor) : State := { s with comp := s.comp.set i.toNat c }
def State.setDl (s : State) (i : BitVec 8) (d : DelayLine) : State := { s with dl := s.dl.set i.toNat d }

/-- Runs a command on `bq[i]`; a stage that does not exist makes the command illegal (rule R77). -/
def withBq (s : State) (i : BitVec 8) (k : Biquad → Result) : Result :=
  match s.bq[i.toNat]? with
  | some b => k b
  | none => .refused .illegalCommand

/-- Runs a command on `ef[i]` (rule R77). -/
def withEf (s : State) (i : BitVec 8) (k : Follower → Result) : Result :=
  match s.ef[i.toNat]? with
  | some e => k e
  | none => .refused .illegalCommand

/-- Runs a command on `comp[i]` (rule R77). -/
def withComp (s : State) (i : BitVec 8) (k : Compressor → Result) : Result :=
  match s.comp[i.toNat]? with
  | some c => k c
  | none => .refused .illegalCommand

/-- Runs a command on `dl[i]` (rule R77). -/
def withDl (s : State) (i : BitVec 8) (k : DelayLine → Result) : Result :=
  match s.dl[i.toNat]? with
  | some d => k d
  | none => .refused .illegalCommand

/-- The command completes, leaving `b` in `bq[i]`. -/
def finishBq (s : State) (i : BitVec 8) (b : Biquad) (r : Response) : Result := .next ((s.setBq i b).respond r)
/-- The command completes, leaving `e` in `ef[i]`. -/
def finishEf (s : State) (i : BitVec 8) (e : Follower) (r : Response) : Result := .next ((s.setEf i e).respond r)
/-- The command completes, leaving `c` in `comp[i]`. -/
def finishComp (s : State) (i : BitVec 8) (c : Compressor) (r : Response) : Result := .next ((s.setComp i c).respond r)
/-- The command completes, leaving `d` in `dl[i]`. -/
def finishDl (s : State) (i : BitVec 8) (d : DelayLine) (r : Response) : Result := .next ((s.setDl i d).respond r)

/-! ### The delay memory (rules R50 to R55) -/

/-- What an unlisted sample index reads as: +0.0, the value every cell is constructed with (rule R242; log 12). -/
abbrev unlistedSample : F32 := 0

/-- The sample at an index. -/
def memRead (m : SampleMem) (n : Nat) : F32 :=
  match m with
  | [] => unlistedSample
  | (a, x) :: rest => if a = n then x else memRead rest n

/-- The memory with one sample replaced, in canonical form. -/
def memWrite (m : SampleMem) (n : Nat) (v : F32) : SampleMem :=
  match m with
  | [] => if v = unlistedSample then [] else [(n, v)]
  | (a, x) :: rest =>
    if n < a then (if v = unlistedSample then (a, x) :: rest else (n, v) :: (a, x) :: rest)
    else if n = a then (if v = unlistedSample then rest else (n, v) :: rest)
    else (a, x) :: memWrite rest n v

/-- The memory with +0.0 in every cell. -/
def memZeroed : SampleMem := []

/-- Every listed index is at least `lo` and below `hi`, the indices rise strictly, and no listed sample is the unlisted one. -/
def memWfFrom (lo hi : Nat) (m : SampleMem) : Bool :=
  match m with
  | [] => true
  | (a, x) :: rest => decide (lo ≤ a) && decide (a < hi) && decide (x ≠ unlistedSample) && memWfFrom (a + 1) hi rest

/-- The canonical form of a delay memory of which the cells `0 .. len−1` are in use (rule R50). -/
def memWf (len : Nat) (m : SampleMem) : Bool := memWfFrom 0 len m

/-- `MemRead(i, n)`: defined only on a configured line, for `n < len` (rule R54). -/
def DelayLine.read (d : DelayLine) (n : Nat) : Option F32 :=
  if d.configured && decide (n < d.len) then some (memRead d.buf n) else none

/-- `MemWrite(i, n, v)`: defined only on a configured line, for `n < len` (rule R54). -/
def DelayLine.write (d : DelayLine) (n : Nat) (v : F32) : Option DelayLine :=
  if d.configured && decide (n < d.len) then some { d with buf := memWrite d.buf n v } else none

/-- The line with +0.0 in every cell and its cursor at 0 (rule R250). -/
def DelayLine.cleared (d : DelayLine) : DelayLine := { d with buf := memZeroed, wpos := 0 }

/-- The line configured with a length and a rate, every cell +0.0, the cursor at 0 (rules R242, R245). -/
def DelayLine.configure (d : DelayLine) (len : Nat) (rate : F32) : DelayLine :=
  { d with configured := true, len := len, rate := rate, buf := memZeroed, wpos := 0 }

end Sys2Proof.Machine
end

