-- ==== Sys2Proof/Machine/Biquad.lean ====
section
/-! DEFINITION. The meanings of the biquad stage: `BQ_UPDATE.<T>`, `BQ_SETCOEF`, `BQ_PROCESS`, `BQ_RESET` (rules R180 to
R184). -/

namespace Sys2Proof.Machine

/-- All five coefficient registers written in one step, the mark set; the history is not touched (rules R181, R182). -/
def Biquad.load (b : Biquad) (c : Coefs) : Biquad := { b with coef := c, coefWritten := true }

/-- `((((b0·in) + (b1·x1)) + (b2·x2)) − (a1·y1)) − (a2·y2)` (rules R102, R183). -/
def Biquad.acc (b : Biquad) (input : F32) : F32 :=
  fsub (fsub (fadd (fadd (fmul b.coef.b0 input) (fmul b.coef.b1 b.x1)) (fmul b.coef.b2 b.x2)) (fmul b.coef.a1 b.y1))
    (fmul b.coef.a2 b.y2)

/-- The output: the sum, flushed below 1e-11 (rules R108, R183). -/
def Biquad.output (b : Biquad) (input : F32) : F32 := flush (b.acc input) litBiquadFlush

/-- The history shifted: `x2←x1, x1←input, y2←y1, y1←output` (rule R183). -/
def Biquad.shift (b : Biquad) (input output : F32) : Biquad :=
  { b with x1 := input, x2 := b.x1, y1 := output, y2 := b.y1 }

/-- The four history cells zeroed (rule R184). -/
def Biquad.zeroHistory (b : Biquad) : Biquad := { b with x1 := litZero, x2 := litZero, y1 := litZero, y2 := litZero }

/-- `BQ_UPDATE` with type `t`: derive and set (rule R181). -/
def bqUpdate (t : FilterType) (i : BitVec 8) (freq q g sr : F32) (s : State) : Result :=
  withBq s i fun b => finishBq s i (b.load (deriveHw s.params t freq q g sr)) .empty

/-- `BQ_UPDATE.LPF` (rules R181, R136). -/
def execBqUpdateLpf (i : BitVec 8) (freq q g sr : F32) (s : State) : Result := bqUpdate .lpf i freq q g sr s

/-- `BQ_UPDATE.HPF` (rules R181, R137). -/
def execBqUpdateHpf (i : BitVec 8) (freq q g sr : F32) (s : State) : Result := bqUpdate .hpf i freq q g sr s

/-- `BQ_UPDATE.BPF_PEAKQ` (rules R181, R138). -/
def execBqUpdateBpfPeakq (i : BitVec 8) (freq q g sr : F32) (s : State) : Result := bqUpdate .bpfPeakq i freq q g sr s

/-- `BQ_UPDATE.BPF_0DB` (rules R181, R139). -/
def execBqUpdateBpf0db (i : BitVec 8) (freq q g sr : F32) (s : State) : Result := bqUpdate .bpf0db i freq q g sr s

/-- `BQ_UPDATE.NOTCH` (rules R181, R140). -/
def execBqUpdateNotch (i : BitVec 8) (freq q g sr : F32) (s : State) : Result := bqUpdate .notch i freq q g sr s

/-- `BQ_UPDATE.APF` (rules R181, R141). -/
def execBqUpdateApf (i : BitVec 8) (freq q g sr : F32) (s : State) : Result := bqUpdate .apf i freq q g sr s

/-- `BQ_UPDATE.LP1` (rules R181, R142). -/
def execBqUpdateLp1 (i : BitVec 8) (freq q g sr : F32) (s : State) : Result := bqUpdate .lp1 i freq q g sr s

/-- `BQ_UPDATE.HP1` (rules R181, R143). -/
def execBqUpdateHp1 (i : BitVec 8) (freq q g sr : F32) (s : State) : Result := bqUpdate .hp1 i freq q g sr s

/-- `BQ_UPDATE.PEAK` (rules R181, R144). -/
def execBqUpdatePeak (i : BitVec 8) (freq q g sr : F32) (s : State) : Result := bqUpdate .peak i freq q g sr s

/-- `BQ_UPDATE.LSHELF` (rules R181, R145). -/
def execBqUpdateLshelf (i : BitVec 8) (freq q g sr : F32) (s : State) : Result := bqUpdate .lshelf i freq q g sr s

/-- `BQ_UPDATE.HSHELF` (rules R181, R146). -/
def execBqUpdateHshelf (i : BitVec 8) (freq q g sr : F32) (s : State) : Result := bqUpdate .hshelf i freq q g sr s

/-- `BQ_UPDATE.TILT` (rules R181, R147). -/
def execBqUpdateTilt (i : BitVec 8) (freq q g sr : F32) (s : State) : Result := bqUpdate .tilt i freq q g sr s

/-- `BQ_UPDATE.LR_LP` (rules R181, R148). -/
def execBqUpdateLrLp (i : BitVec 8) (freq q g sr : F32) (s : State) : Result := bqUpdate .lrLp i freq q g sr s

/-- `BQ_UPDATE.LR_HP` (rules R181, R149). -/
def execBqUpdateLrHp (i : BitVec 8) (freq q g sr : F32) (s : State) : Result := bqUpdate .lrHp i freq q g sr s

/-- `BQ_UPDATE.BW_LP` (rules R181, R150). -/
def execBqUpdateBwLp (i : BitVec 8) (freq q g sr : F32) (s : State) : Result := bqUpdate .bwLp i freq q g sr s

/-- `BQ_UPDATE.BW_HP` (rules R181, R151). -/
def execBqUpdateBwHp (i : BitVec 8) (freq q g sr : F32) (s : State) : Result := bqUpdate .bwHp i freq q g sr s

/-- `BQ_UPDATE.WARMTH` (rules R181, R152). -/
def execBqUpdateWarmth (i : BitVec 8) (freq q g sr : F32) (s : State) : Result := bqUpdate .warmth i freq q g sr s

/-- `BQ_UPDATE.BRIGHT` (rules R181, R153). -/
def execBqUpdateBright (i : BitVec 8) (freq q g sr : F32) (s : State) : Result := bqUpdate .bright i freq q g sr s

/-- `BQ_UPDATE.PRESENCE` (rules R181, R154). -/
def execBqUpdatePresence (i : BitVec 8) (freq q g sr : F32) (s : State) : Result := bqUpdate .presence i freq q g sr s

/-- `BQ_UPDATE.AIR` (rules R181, R155). -/
def execBqUpdateAir (i : BitVec 8) (freq q g sr : F32) (s : State) : Result := bqUpdate .air i freq q g sr s

/-- `BQ_UPDATE.SUBBASS` (rules R181, R156). -/
def execBqUpdateSubbass (i : BitVec 8) (freq q g sr : F32) (s : State) : Result := bqUpdate .subbass i freq q g sr s

/-- `BQ_UPDATE.VOCAL` (rules R181, R157). -/
def execBqUpdateVocal (i : BitVec 8) (freq q g sr : F32) (s : State) : Result := bqUpdate .vocal i freq q g sr s

/-- `BQ_UPDATE.DCBLOCK` (rules R181, R158). -/
def execBqUpdateDcblock (i : BitVec 8) (freq q g sr : F32) (s : State) : Result := bqUpdate .dcblock i freq q g sr s

/-- `BQ_UPDATE.UNITY` (rules R181, R159). -/
def execBqUpdateUnity (i : BitVec 8) (freq q g sr : F32) (s : State) : Result := bqUpdate .unity i freq q g sr s

/-- `BQ_SETCOEF`: the five values are stored as they are (rule R182). -/
def execBqSetcoef (i : BitVec 8) (b0 b1 b2 a1 a2 : F32) (s : State) : Result :=
  withBq s i fun b => finishBq s i (b.load ⟨b0, b1, b2, a1, a2⟩) .empty

/-- `BQ_PROCESS`: the unwritten check that rule R273 puts second, then the recurrence (rule R183). -/
def execBqProcess (i : BitVec 8) (input : F32) (s : State) : Result :=
  withBq s i fun b =>
    if b.coefWritten then finishBq s i (b.shift input (b.output input)) (.value (b.output input))
    else .refused .unwrittenCoefficients

/-- `BQ_RESET` (rule R184). -/
def execBqReset (i : BitVec 8) (s : State) : Result :=
  withBq s i fun b => finishBq s i b.zeroHistory .empty

end Sys2Proof.Machine
end

