-- ==== Sys2Proof/Machine/CoefDerive.lean ====
section
/-! DEFINITION. The meanings of `COEF_DERIVE.<T>`: the derivation as a command of its own, which reads and writes no state
and answers the five coefficients (rule R130). One definition per filter type, each over the shared operation. -/

namespace Sys2Proof.Machine

/-- `COEF_DERIVE` with type `t`: R0..R4 = b0 b1 b2 a1 a2 (rule R130). -/
def coefDerive (t : FilterType) (freq q g sr : F32) (s : State) : Result :=
  .next (s.respond (.coefs (deriveHw s.params t freq q g sr)))

/-- `COEF_DERIVE.LPF` (rules R130, R136). -/
def execCoefDeriveLpf (freq q g sr : F32) (s : State) : Result := coefDerive .lpf freq q g sr s

/-- `COEF_DERIVE.HPF` (rules R130, R137). -/
def execCoefDeriveHpf (freq q g sr : F32) (s : State) : Result := coefDerive .hpf freq q g sr s

/-- `COEF_DERIVE.BPF_PEAKQ` (rules R130, R138). -/
def execCoefDeriveBpfPeakq (freq q g sr : F32) (s : State) : Result := coefDerive .bpfPeakq freq q g sr s

/-- `COEF_DERIVE.BPF_0DB` (rules R130, R139). -/
def execCoefDeriveBpf0db (freq q g sr : F32) (s : State) : Result := coefDerive .bpf0db freq q g sr s

/-- `COEF_DERIVE.NOTCH` (rules R130, R140). -/
def execCoefDeriveNotch (freq q g sr : F32) (s : State) : Result := coefDerive .notch freq q g sr s

/-- `COEF_DERIVE.APF` (rules R130, R141). -/
def execCoefDeriveApf (freq q g sr : F32) (s : State) : Result := coefDerive .apf freq q g sr s

/-- `COEF_DERIVE.LP1` (rules R130, R142). -/
def execCoefDeriveLp1 (freq q g sr : F32) (s : State) : Result := coefDerive .lp1 freq q g sr s

/-- `COEF_DERIVE.HP1` (rules R130, R143). -/
def execCoefDeriveHp1 (freq q g sr : F32) (s : State) : Result := coefDerive .hp1 freq q g sr s

/-- `COEF_DERIVE.PEAK` (rules R130, R144). -/
def execCoefDerivePeak (freq q g sr : F32) (s : State) : Result := coefDerive .peak freq q g sr s

/-- `COEF_DERIVE.LSHELF` (rules R130, R145). -/
def execCoefDeriveLshelf (freq q g sr : F32) (s : State) : Result := coefDerive .lshelf freq q g sr s

/-- `COEF_DERIVE.HSHELF` (rules R130, R146). -/
def execCoefDeriveHshelf (freq q g sr : F32) (s : State) : Result := coefDerive .hshelf freq q g sr s

/-- `COEF_DERIVE.TILT` (rules R130, R147). -/
def execCoefDeriveTilt (freq q g sr : F32) (s : State) : Result := coefDerive .tilt freq q g sr s

/-- `COEF_DERIVE.LR_LP` (rules R130, R148). -/
def execCoefDeriveLrLp (freq q g sr : F32) (s : State) : Result := coefDerive .lrLp freq q g sr s

/-- `COEF_DERIVE.LR_HP` (rules R130, R149). -/
def execCoefDeriveLrHp (freq q g sr : F32) (s : State) : Result := coefDerive .lrHp freq q g sr s

/-- `COEF_DERIVE.BW_LP` (rules R130, R150). -/
def execCoefDeriveBwLp (freq q g sr : F32) (s : State) : Result := coefDerive .bwLp freq q g sr s

/-- `COEF_DERIVE.BW_HP` (rules R130, R151). -/
def execCoefDeriveBwHp (freq q g sr : F32) (s : State) : Result := coefDerive .bwHp freq q g sr s

/-- `COEF_DERIVE.WARMTH` (rules R130, R152). -/
def execCoefDeriveWarmth (freq q g sr : F32) (s : State) : Result := coefDerive .warmth freq q g sr s

/-- `COEF_DERIVE.BRIGHT` (rules R130, R153). -/
def execCoefDeriveBright (freq q g sr : F32) (s : State) : Result := coefDerive .bright freq q g sr s

/-- `COEF_DERIVE.PRESENCE` (rules R130, R154). -/
def execCoefDerivePresence (freq q g sr : F32) (s : State) : Result := coefDerive .presence freq q g sr s

/-- `COEF_DERIVE.AIR` (rules R130, R155). -/
def execCoefDeriveAir (freq q g sr : F32) (s : State) : Result := coefDerive .air freq q g sr s

/-- `COEF_DERIVE.SUBBASS` (rules R130, R156). -/
def execCoefDeriveSubbass (freq q g sr : F32) (s : State) : Result := coefDerive .subbass freq q g sr s

/-- `COEF_DERIVE.VOCAL` (rules R130, R157). -/
def execCoefDeriveVocal (freq q g sr : F32) (s : State) : Result := coefDerive .vocal freq q g sr s

/-- `COEF_DERIVE.DCBLOCK` (rules R130, R158). -/
def execCoefDeriveDcblock (freq q g sr : F32) (s : State) : Result := coefDerive .dcblock freq q g sr s

/-- `COEF_DERIVE.UNITY` (rules R130, R159). -/
def execCoefDeriveUnity (freq q g sr : F32) (s : State) : Result := coefDerive .unity freq q g sr s

end Sys2Proof.Machine
end

