-- ==== Sys2Proof/Machine/Envelope.lean ====
section
/-! DEFINITION. The envelope follower: the three procedures on a follower record, shared with the compressor (rule R200), and
the meanings of `ENV_SETTIMES`, `ENV_PROCESS`, `ENV_RESET` (rules R201 to R203). -/

namespace Sys2Proof.Machine

/-- `ef_settimes(e, am, rm, sr)`: both coefficients, independently; the envelope is not touched (rule R201). -/
def efSettimes (N : Numerics) (e : Follower) (am rm sr : F32) : Follower :=
  { e with attackCoeff := timeCoeff N am sr, releaseCoeff := timeCoeff N rm sr, timesWritten := true }

/-- The coefficient of a rectified input: attack when the signal is rising, else release (rule R202). -/
def Follower.coeffFor (e : Follower) (a : F32) : F32 := if rising a e.env then e.attackCoeff else e.releaseCoeff

/-- The new envelope for an input: `a + (c · (env − a))`, flushed below 1e-15 (rule R202). -/
def Follower.level (e : Follower) (x : F32) : F32 :=
  let a := fabs x
  flush (fadd a (fmul (e.coeffFor a) (fsub e.env a))) litEnvFlush

/-- `ef_process(e, x)` on a follower whose times are written: the new envelope is stored, and is the result (rule R202). -/
def efProcess (e : Follower) (x : F32) : Follower := { e with env := e.level x }

/-- `ef_reset(e)`: the envelope zeroed, the coefficients kept (rule R203). -/
def efReset (e : Follower) : Follower := { e with env := litZero }

/-- `ENV_SETTIMES` (rule R201). -/
def execEnvSettimes (i : BitVec 8) (am rm sr : F32) (s : State) : Result :=
  withEf s i fun e => finishEf s i (efSettimes Config.num e am rm sr) .empty

/-- `ENV_PROCESS`: the unwritten check that rule R273 puts second, then `ef_process` (rule R202). -/
def execEnvProcess (i : BitVec 8) (input : F32) (s : State) : Result :=
  withEf s i fun e =>
    if e.timesWritten then finishEf s i (efProcess e input) (.value (efProcess e input).env)
    else .refused .unwrittenCoefficients

/-- `ENV_RESET` (rule R203). -/
def execEnvReset (i : BitVec 8) (s : State) : Result :=
  withEf s i fun e => finishEf s i (efReset e) .empty

end Sys2Proof.Machine
end

