-- ==== Sys2Proof/Machine/Compressor.lean ====
section
/-! DEFINITION. The dynamics compressor: the gain computer (rule R223) and the meanings of `COMP_SETTIMES`, `COMP_PROCESS`,
`COMP_RESET` (rules R221, R222, R224). -/

namespace Sys2Proof.Machine

/-- `gain_reduction(inDb, thr, ratio, knee)`, in dB: soft knee, above the knee, below it, tested in this order (rule R223). -/
def gainReduction (inDb thr ratio knee : F32) : F32 :=
  let half := fdiv knee litTwo
  if inSoftKnee inDb thr half knee then
    let x := fadd (fsub inDb thr) half
    fdiv (fmul (fsub (fdiv litOne ratio) litOne) (fmul x x)) (fmul litTwo knee)
  else if aboveKnee inDb thr half then
    let excess := fsub inDb thr
    fsub (fdiv excess ratio) excess
  else litZero

/-- The detection signal `max(|left|, |right|)` (rule R222). -/
def detect (left right : F32) : F32 := fmax (fabs left) (fabs right)

/-- The linear gain for an envelope: to dB, gain computer, back (rule R222). -/
def gainFor (N : Numerics) (env thr ratio knee : F32) : F32 := dbToLin N (gainReduction (linToDb N env) thr ratio knee)

/-- `COMP_SETTIMES` (rule R221). -/
def execCompSettimes (i : BitVec 8) (am rm sr : F32) (s : State) : Result :=
  withComp s i fun c => finishComp s i ⟨efSettimes Config.num c.ef am rm sr⟩ .empty

/-- `COMP_PROCESS`: the unwritten check that rule R273 puts second, then detection, follower and gain (rule R222). -/
def execCompProcess (i : BitVec 8) (left right thr ratio knee : F32) (s : State) : Result :=
  withComp s i fun c =>
    if c.ef.timesWritten then
      let e := efProcess c.ef (detect left right)
      finishComp s i ⟨e⟩ (.value (gainFor Config.num e.env thr ratio knee))
    else .refused .unwrittenCoefficients

/-- `COMP_RESET` (rule R224). -/
def execCompReset (i : BitVec 8) (s : State) : Result :=
  withComp s i fun c => finishComp s i ⟨efReset c.ef⟩ .empty

end Sys2Proof.Machine
end

