-- ==== Sys2Proof/Machine/Delay.lean ====
section
/-! DEFINITION. The delay line: the meanings of `DL_CONSTRUCT`, `DL_SETRATE`, `DL_PROCESS`, `DL_RESET` (rules R240 to R250). -/

namespace Sys2Proof.Machine

/-- Nothing changes in a `DL_SETRATE`: the same rate, bit for bit, and the same length (rules R245, R246). -/
def DelayLine.unchangedBy (d : DelayLine) (rate : F32) (n : Nat) : Bool := decide (rate = d.rate) && decide (n = d.len)

/-- The unchanged case of `DL_SETRATE`: the line keeps its content or is reinitialised, which one is free, drawn afresh each
time (rule R246, log 9). -/
def DelayLine.chooseUnchanged (d : DelayLine) (i : BitVec 8) (n : Nat) (rate : F32) : DelayLine :=
  let d' := { d with choices := d.choices + 1 }
  if Config.setRateKeeps i.toNat d.choices then d' else d'.configure n rate

/-- The line after a `DL_SETRATE` with computed length `n` (rule R245). -/
def DelayLine.setRate (d : DelayLine) (i : BitVec 8) (n : Nat) (rate : F32) : DelayLine :=
  if d.unchangedBy rate n then d.chooseUnchanged i n rate else d.configure n rate

/-- The sample index a `DL_PROCESS` reads, for a requested delay (rules R248, R249). -/
def DelayLine.tap (d : DelayLine) (delayMs : F32) : Nat := readPos d.wpos d.len (delaySamples delayMs d.rate d.len)

/-- The line with its write cursor advanced (rule R247). -/
def DelayLine.advance (d : DelayLine) : DelayLine := { d with wpos := nextPos d.wpos d.len }

/-- `DL_CONSTRUCT` (rules R242, R243). -/
def execDlConstruct (i : BitVec 8) (maxMs sr : F32) (s : State) : Result :=
  withDl s i fun d =>
    if s.params.dlMaxLen < dlLength maxMs sr then .refused .overCapacity
    else finishDl s i (d.configure (dlLength maxMs sr) sr) .empty

/-- `DL_SETRATE`: the rate is A0 and the maximal delay A1 (rules R245, R246). -/
def execDlSetrate (i : BitVec 8) (rate maxMs : F32) (s : State) : Result :=
  withDl s i fun d =>
    if !d.configured then .refused .unconfigured
    else if s.params.dlMaxLen < dlLength maxMs rate then .refused .overCapacity
    else finishDl s i (d.setRate i (dlLength maxMs rate) rate) .empty

/-- `DL_PROCESS`: one read, then one write, then the cursor moves; the value read is the result (rule R247). -/
def execDlProcess (i : BitVec 8) (input delayMs feedback : F32) (s : State) : Result :=
  withDl s i fun d =>
    if !d.configured then .refused .unconfigured
    else
      match d.read (d.tap delayMs) with
      | none => .fault .noSuchCell
      | some out =>
        match d.write d.wpos (fadd input (fmul out feedback)) with
        | none => .fault .noSuchCell
        | some d' => finishDl s i d'.advance (.value out)

/-- `DL_RESET` (rule R250). -/
def execDlReset (i : BitVec 8) (s : State) : Result :=
  withDl s i fun d =>
    if !d.configured then .refused .unconfigured
    else finishDl s i d.cleared .empty

end Sys2Proof.Machine
end

