-- ==== Sys2Proof/Machine/Dispatch.lean ====
section
/-! DEFINITION. One arm per instruction. -/

namespace Sys2Proof.Machine

def exec (i : Instr) (s : State) : Host.Outcome State Fault Refusal :=
  match i with
  | .coefDeriveLpf f q g sr => Sys2Proof.Machine.execCoefDeriveLpf f q g sr s
  | .coefDeriveHpf f q g sr => Sys2Proof.Machine.execCoefDeriveHpf f q g sr s
  | .coefDeriveBpfPeakq f q g sr => Sys2Proof.Machine.execCoefDeriveBpfPeakq f q g sr s
  | .coefDeriveBpf0db f q g sr => Sys2Proof.Machine.execCoefDeriveBpf0db f q g sr s
  | .coefDeriveNotch f q g sr => Sys2Proof.Machine.execCoefDeriveNotch f q g sr s
  | .coefDeriveApf f q g sr => Sys2Proof.Machine.execCoefDeriveApf f q g sr s
  | .coefDeriveLp1 f q g sr => Sys2Proof.Machine.execCoefDeriveLp1 f q g sr s
  | .coefDeriveHp1 f q g sr => Sys2Proof.Machine.execCoefDeriveHp1 f q g sr s
  | .coefDerivePeak f q g sr => Sys2Proof.Machine.execCoefDerivePeak f q g sr s
  | .coefDeriveLshelf f q g sr => Sys2Proof.Machine.execCoefDeriveLshelf f q g sr s
  | .coefDeriveHshelf f q g sr => Sys2Proof.Machine.execCoefDeriveHshelf f q g sr s
  | .coefDeriveTilt f q g sr => Sys2Proof.Machine.execCoefDeriveTilt f q g sr s
  | .coefDeriveLrLp f q g sr => Sys2Proof.Machine.execCoefDeriveLrLp f q g sr s
  | .coefDeriveLrHp f q g sr => Sys2Proof.Machine.execCoefDeriveLrHp f q g sr s
  | .coefDeriveBwLp f q g sr => Sys2Proof.Machine.execCoefDeriveBwLp f q g sr s
  | .coefDeriveBwHp f q g sr => Sys2Proof.Machine.execCoefDeriveBwHp f q g sr s
  | .coefDeriveWarmth f q g sr => Sys2Proof.Machine.execCoefDeriveWarmth f q g sr s
  | .coefDeriveBright f q g sr => Sys2Proof.Machine.execCoefDeriveBright f q g sr s
  | .coefDerivePresence f q g sr => Sys2Proof.Machine.execCoefDerivePresence f q g sr s
  | .coefDeriveAir f q g sr => Sys2Proof.Machine.execCoefDeriveAir f q g sr s
  | .coefDeriveSubbass f q g sr => Sys2Proof.Machine.execCoefDeriveSubbass f q g sr s
  | .coefDeriveVocal f q g sr => Sys2Proof.Machine.execCoefDeriveVocal f q g sr s
  | .coefDeriveDcblock f q g sr => Sys2Proof.Machine.execCoefDeriveDcblock f q g sr s
  | .coefDeriveUnity f q g sr => Sys2Proof.Machine.execCoefDeriveUnity f q g sr s
  | .bqUpdateLpf inst f q g sr => Sys2Proof.Machine.execBqUpdateLpf inst f q g sr s
  | .bqUpdateHpf inst f q g sr => Sys2Proof.Machine.execBqUpdateHpf inst f q g sr s
  | .bqUpdateBpfPeakq inst f q g sr => Sys2Proof.Machine.execBqUpdateBpfPeakq inst f q g sr s
  | .bqUpdateBpf0db inst f q g sr => Sys2Proof.Machine.execBqUpdateBpf0db inst f q g sr s
  | .bqUpdateNotch inst f q g sr => Sys2Proof.Machine.execBqUpdateNotch inst f q g sr s
  | .bqUpdateApf inst f q g sr => Sys2Proof.Machine.execBqUpdateApf inst f q g sr s
  | .bqUpdateLp1 inst f q g sr => Sys2Proof.Machine.execBqUpdateLp1 inst f q g sr s
  | .bqUpdateHp1 inst f q g sr => Sys2Proof.Machine.execBqUpdateHp1 inst f q g sr s
  | .bqUpdatePeak inst f q g sr => Sys2Proof.Machine.execBqUpdatePeak inst f q g sr s
  | .bqUpdateLshelf inst f q g sr => Sys2Proof.Machine.execBqUpdateLshelf inst f q g sr s
  | .bqUpdateHshelf inst f q g sr => Sys2Proof.Machine.execBqUpdateHshelf inst f q g sr s
  | .bqUpdateTilt inst f q g sr => Sys2Proof.Machine.execBqUpdateTilt inst f q g sr s
  | .bqUpdateLrLp inst f q g sr => Sys2Proof.Machine.execBqUpdateLrLp inst f q g sr s
  | .bqUpdateLrHp inst f q g sr => Sys2Proof.Machine.execBqUpdateLrHp inst f q g sr s
  | .bqUpdateBwLp inst f q g sr => Sys2Proof.Machine.execBqUpdateBwLp inst f q g sr s
  | .bqUpdateBwHp inst f q g sr => Sys2Proof.Machine.execBqUpdateBwHp inst f q g sr s
  | .bqUpdateWarmth inst f q g sr => Sys2Proof.Machine.execBqUpdateWarmth inst f q g sr s
  | .bqUpdateBright inst f q g sr => Sys2Proof.Machine.execBqUpdateBright inst f q g sr s
  | .bqUpdatePresence inst f q g sr => Sys2Proof.Machine.execBqUpdatePresence inst f q g sr s
  | .bqUpdateAir inst f q g sr => Sys2Proof.Machine.execBqUpdateAir inst f q g sr s
  | .bqUpdateSubbass inst f q g sr => Sys2Proof.Machine.execBqUpdateSubbass inst f q g sr s
  | .bqUpdateVocal inst f q g sr => Sys2Proof.Machine.execBqUpdateVocal inst f q g sr s
  | .bqUpdateDcblock inst f q g sr => Sys2Proof.Machine.execBqUpdateDcblock inst f q g sr s
  | .bqUpdateUnity inst f q g sr => Sys2Proof.Machine.execBqUpdateUnity inst f q g sr s
  | .bqSetcoef inst b0 b1 b2 a1 a2 => Sys2Proof.Machine.execBqSetcoef inst b0 b1 b2 a1 a2 s
  | .bqProcess inst x => Sys2Proof.Machine.execBqProcess inst x s
  | .bqReset inst => Sys2Proof.Machine.execBqReset inst s
  | .envSettimes inst am rm sr => Sys2Proof.Machine.execEnvSettimes inst am rm sr s
  | .envProcess inst x => Sys2Proof.Machine.execEnvProcess inst x s
  | .envReset inst => Sys2Proof.Machine.execEnvReset inst s
  | .compSettimes inst am rm sr => Sys2Proof.Machine.execCompSettimes inst am rm sr s
  | .compProcess inst l r thr ratio knee => Sys2Proof.Machine.execCompProcess inst l r thr ratio knee s
  | .compReset inst => Sys2Proof.Machine.execCompReset inst s
  | .dlConstruct inst ms sr => Sys2Proof.Machine.execDlConstruct inst ms sr s
  | .dlSetrate inst rate ms => Sys2Proof.Machine.execDlSetrate inst rate ms s
  | .dlProcess inst x ms fb => Sys2Proof.Machine.execDlProcess inst x ms fb s
  | .dlReset inst => Sys2Proof.Machine.execDlReset inst s

end Sys2Proof.Machine
end

