-- ==== Sys2Proof/Machine/Step.lean ====
section
/-! DEFINITION. One step of the machine: the host's next command is taken off the port, decoded and executed whole. -/

namespace Sys2Proof.Machine

/-- A command executes on the machine that has taken it; an illegal command word is refused (rules R70, R78, R273). -/
def runCommand (c : Command) (s : State) : Host.Outcome State Fault Refusal :=
  match decode c with
  | .ok i => exec i s
  | .error _ => .refused .illegalCommand

/-- One step: the next command of the host, or nothing at all when none waits (rules R5, R56; log 3). -/
def step (s : State) : Host.Outcome State Fault Refusal :=
  match s.accept with
  | some (c, t) => runCommand c t
  | none => .next s

/-- The machine with the command of an opcode-table word put first on the port (log 14). -/
def State.withFetchWord (s : State) (nbits w : Nat) : State := s.issue (wordCommand nbits w)

end Sys2Proof.Machine
end

