-- ==== Sys2Proof/Safety.lean ====
section
/-! DEFINITION. What claims are stated in: the invariant of a safe run, which instance an instruction names, when a legal
instruction is ready to execute, what kind of response it gives, and the law of the delay line as a function of its inputs. -/

namespace Sys2Proof.Machine

/-! ### The invariant -/

/-- A stage nothing has written is as power-on left it (rules R22, R291), and the two output cells hold flushed outputs
(rules R108, R183). -/
def Biquad.inv (b : Biquad) : Bool :=
  (b.coefWritten || decide (b = Biquad.powerOn)) &&
    decide (flush b.y1 litBiquadFlush = b.y1) && decide (flush b.y2 litBiquadFlush = b.y2)

/-- A follower nothing has written is as power-on left it (rules R30, R291), and the envelope is a flushed value (rules R108,
R202). -/
def Follower.inv (e : Follower) : Bool :=
  (e.timesWritten || decide (e = Follower.powerOn)) && decide (flush e.env litEnvFlush = e.env)

/-- Rule R35 of a configured line, its memory in canonical form; an unconfigured line is as power-on left it (rule R36). -/
def DelayLine.inv (maxLen : Nat) (d : DelayLine) : Bool :=
  if d.configured then
    decide (1 ≤ d.len) && decide (d.len ≤ maxLen) && decide (d.wpos < d.len) && memWf d.len d.buf
  else decide (d = DelayLine.powerOn)

/-- The range rule R6 gives `DL_MAX_LEN`. -/
def Params.inRange (p : Params) : Bool := decide (1 ≤ p.dlMaxLen ∧ p.dlMaxLen ≤ 2 ^ 24)

/-- The invariant of the machine. -/
def State.inv (s : State) : Bool :=
  s.counts.inRange && Params.inRange s.params && s.bq.all Biquad.inv && s.ef.all Follower.inv &&
    s.comp.all (fun c => c.ef.inv) && s.dl.all (DelayLine.inv s.params.dlMaxLen)

/-! ### What an instruction names and needs -/

/-- The instance an instruction names (rule R77); `COEF_DERIVE` names none. -/
inductive Target where
  | none
  | bq (n : Nat)
  | ef (n : Nat)
  | comp (n : Nat)
  | dl (n : Nat)
deriving DecidableEq, Repr

def target (i : Instr) : Target :=
  match i with
  | .coefDeriveLpf _ _ _ _ => .none
  | .coefDeriveHpf _ _ _ _ => .none
  | .coefDeriveBpfPeakq _ _ _ _ => .none
  | .coefDeriveBpf0db _ _ _ _ => .none
  | .coefDeriveNotch _ _ _ _ => .none
  | .coefDeriveApf _ _ _ _ => .none
  | .coefDeriveLp1 _ _ _ _ => .none
  | .coefDeriveHp1 _ _ _ _ => .none
  | .coefDerivePeak _ _ _ _ => .none
  | .coefDeriveLshelf _ _ _ _ => .none
  | .coefDeriveHshelf _ _ _ _ => .none
  | .coefDeriveTilt _ _ _ _ => .none
  | .coefDeriveLrLp _ _ _ _ => .none
  | .coefDeriveLrHp _ _ _ _ => .none
  | .coefDeriveBwLp _ _ _ _ => .none
  | .coefDeriveBwHp _ _ _ _ => .none
  | .coefDeriveWarmth _ _ _ _ => .none
  | .coefDeriveBright _ _ _ _ => .none
  | .coefDerivePresence _ _ _ _ => .none
  | .coefDeriveAir _ _ _ _ => .none
  | .coefDeriveSubbass _ _ _ _ => .none
  | .coefDeriveVocal _ _ _ _ => .none
  | .coefDeriveDcblock _ _ _ _ => .none
  | .coefDeriveUnity _ _ _ _ => .none
  | .bqUpdateLpf inst _ _ _ _ => .bq inst.toNat
  | .bqUpdateHpf inst _ _ _ _ => .bq inst.toNat
  | .bqUpdateBpfPeakq inst _ _ _ _ => .bq inst.toNat
  | .bqUpdateBpf0db inst _ _ _ _ => .bq inst.toNat
  | .bqUpdateNotch inst _ _ _ _ => .bq inst.toNat
  | .bqUpdateApf inst _ _ _ _ => .bq inst.toNat
  | .bqUpdateLp1 inst _ _ _ _ => .bq inst.toNat
  | .bqUpdateHp1 inst _ _ _ _ => .bq inst.toNat
  | .bqUpdatePeak inst _ _ _ _ => .bq inst.toNat
  | .bqUpdateLshelf inst _ _ _ _ => .bq inst.toNat
  | .bqUpdateHshelf inst _ _ _ _ => .bq inst.toNat
  | .bqUpdateTilt inst _ _ _ _ => .bq inst.toNat
  | .bqUpdateLrLp inst _ _ _ _ => .bq inst.toNat
  | .bqUpdateLrHp inst _ _ _ _ => .bq inst.toNat
  | .bqUpdateBwLp inst _ _ _ _ => .bq inst.toNat
  | .bqUpdateBwHp inst _ _ _ _ => .bq inst.toNat
  | .bqUpdateWarmth inst _ _ _ _ => .bq inst.toNat
  | .bqUpdateBright inst _ _ _ _ => .bq inst.toNat
  | .bqUpdatePresence inst _ _ _ _ => .bq inst.toNat
  | .bqUpdateAir inst _ _ _ _ => .bq inst.toNat
  | .bqUpdateSubbass inst _ _ _ _ => .bq inst.toNat
  | .bqUpdateVocal inst _ _ _ _ => .bq inst.toNat
  | .bqUpdateDcblock inst _ _ _ _ => .bq inst.toNat
  | .bqUpdateUnity inst _ _ _ _ => .bq inst.toNat
  | .bqSetcoef inst _ _ _ _ _ => .bq inst.toNat
  | .bqProcess inst _ => .bq inst.toNat
  | .bqReset inst => .bq inst.toNat
  | .envSettimes inst _ _ _ => .ef inst.toNat
  | .envProcess inst _ => .ef inst.toNat
  | .envReset inst => .ef inst.toNat
  | .compSettimes inst _ _ _ => .comp inst.toNat
  | .compProcess inst _ _ _ _ _ => .comp inst.toNat
  | .compReset inst => .comp inst.toNat
  | .dlConstruct inst _ _ => .dl inst.toNat
  | .dlSetrate inst _ _ => .dl inst.toNat
  | .dlProcess inst _ _ _ => .dl inst.toNat
  | .dlReset inst => .dl inst.toNat

/-- The check that rule R273 puts after decoding: what the named instance, if it exists, must hold and the capacity must
allow for a legal instruction to execute. -/
def ready (s : State) (i : Instr) : Bool :=
  match i with
  | .coefDeriveLpf _ _ _ _ => true
  | .coefDeriveHpf _ _ _ _ => true
  | .coefDeriveBpfPeakq _ _ _ _ => true
  | .coefDeriveBpf0db _ _ _ _ => true
  | .coefDeriveNotch _ _ _ _ => true
  | .coefDeriveApf _ _ _ _ => true
  | .coefDeriveLp1 _ _ _ _ => true
  | .coefDeriveHp1 _ _ _ _ => true
  | .coefDerivePeak _ _ _ _ => true
  | .coefDeriveLshelf _ _ _ _ => true
  | .coefDeriveHshelf _ _ _ _ => true
  | .coefDeriveTilt _ _ _ _ => true
  | .coefDeriveLrLp _ _ _ _ => true
  | .coefDeriveLrHp _ _ _ _ => true
  | .coefDeriveBwLp _ _ _ _ => true
  | .coefDeriveBwHp _ _ _ _ => true
  | .coefDeriveWarmth _ _ _ _ => true
  | .coefDeriveBright _ _ _ _ => true
  | .coefDerivePresence _ _ _ _ => true
  | .coefDeriveAir _ _ _ _ => true
  | .coefDeriveSubbass _ _ _ _ => true
  | .coefDeriveVocal _ _ _ _ => true
  | .coefDeriveDcblock _ _ _ _ => true
  | .coefDeriveUnity _ _ _ _ => true
  | .bqUpdateLpf _ _ _ _ _ => true
  | .bqUpdateHpf _ _ _ _ _ => true
  | .bqUpdateBpfPeakq _ _ _ _ _ => true
  | .bqUpdateBpf0db _ _ _ _ _ => true
  | .bqUpdateNotch _ _ _ _ _ => true
  | .bqUpdateApf _ _ _ _ _ => true
  | .bqUpdateLp1 _ _ _ _ _ => true
  | .bqUpdateHp1 _ _ _ _ _ => true
  | .bqUpdatePeak _ _ _ _ _ => true
  | .bqUpdateLshelf _ _ _ _ _ => true
  | .bqUpdateHshelf _ _ _ _ _ => true
  | .bqUpdateTilt _ _ _ _ _ => true
  | .bqUpdateLrLp _ _ _ _ _ => true
  | .bqUpdateLrHp _ _ _ _ _ => true
  | .bqUpdateBwLp _ _ _ _ _ => true
  | .bqUpdateBwHp _ _ _ _ _ => true
  | .bqUpdateWarmth _ _ _ _ _ => true
  | .bqUpdateBright _ _ _ _ _ => true
  | .bqUpdatePresence _ _ _ _ _ => true
  | .bqUpdateAir _ _ _ _ _ => true
  | .bqUpdateSubbass _ _ _ _ _ => true
  | .bqUpdateVocal _ _ _ _ _ => true
  | .bqUpdateDcblock _ _ _ _ _ => true
  | .bqUpdateUnity _ _ _ _ _ => true
  | .bqSetcoef _ _ _ _ _ _ => true
  | .bqProcess inst _ => (s.bq[inst.toNat]?).any (fun b => b.coefWritten)
  | .bqReset _ => true
  | .envSettimes _ _ _ _ => true
  | .envProcess inst _ => (s.ef[inst.toNat]?).any (fun e => e.timesWritten)
  | .envReset _ => true
  | .compSettimes _ _ _ _ => true
  | .compProcess inst _ _ _ _ _ => (s.comp[inst.toNat]?).any (fun c => c.ef.timesWritten)
  | .compReset _ => true
  | .dlConstruct _ ms sr => decide (dlLength ms sr ≤ s.params.dlMaxLen)
  | .dlSetrate inst rate ms => (s.dl[inst.toNat]?).any (fun d => d.configured) && decide (dlLength ms rate ≤ s.params.dlMaxLen)
  | .dlProcess inst _ _ _ => (s.dl[inst.toNat]?).any (fun d => d.configured)
  | .dlReset inst => (s.dl[inst.toNat]?).any (fun d => d.configured)

/-- How many result lanes an instruction's response has (rules R73, R75): none, one or five. -/
def resultLanes (i : Instr) : Nat :=
  match i with
  | .coefDeriveLpf _ _ _ _ => 5
  | .coefDeriveHpf _ _ _ _ => 5
  | .coefDeriveBpfPeakq _ _ _ _ => 5
  | .coefDeriveBpf0db _ _ _ _ => 5
  | .coefDeriveNotch _ _ _ _ => 5
  | .coefDeriveApf _ _ _ _ => 5
  | .coefDeriveLp1 _ _ _ _ => 5
  | .coefDeriveHp1 _ _ _ _ => 5
  | .coefDerivePeak _ _ _ _ => 5
  | .coefDeriveLshelf _ _ _ _ => 5
  | .coefDeriveHshelf _ _ _ _ => 5
  | .coefDeriveTilt _ _ _ _ => 5
  | .coefDeriveLrLp _ _ _ _ => 5
  | .coefDeriveLrHp _ _ _ _ => 5
  | .coefDeriveBwLp _ _ _ _ => 5
  | .coefDeriveBwHp _ _ _ _ => 5
  | .coefDeriveWarmth _ _ _ _ => 5
  | .coefDeriveBright _ _ _ _ => 5
  | .coefDerivePresence _ _ _ _ => 5
  | .coefDeriveAir _ _ _ _ => 5
  | .coefDeriveSubbass _ _ _ _ => 5
  | .coefDeriveVocal _ _ _ _ => 5
  | .coefDeriveDcblock _ _ _ _ => 5
  | .coefDeriveUnity _ _ _ _ => 5
  | .bqUpdateLpf _ _ _ _ _ => 0
  | .bqUpdateHpf _ _ _ _ _ => 0
  | .bqUpdateBpfPeakq _ _ _ _ _ => 0
  | .bqUpdateBpf0db _ _ _ _ _ => 0
  | .bqUpdateNotch _ _ _ _ _ => 0
  | .bqUpdateApf _ _ _ _ _ => 0
  | .bqUpdateLp1 _ _ _ _ _ => 0
  | .bqUpdateHp1 _ _ _ _ _ => 0
  | .bqUpdatePeak _ _ _ _ _ => 0
  | .bqUpdateLshelf _ _ _ _ _ => 0
  | .bqUpdateHshelf _ _ _ _ _ => 0
  | .bqUpdateTilt _ _ _ _ _ => 0
  | .bqUpdateLrLp _ _ _ _ _ => 0
  | .bqUpdateLrHp _ _ _ _ _ => 0
  | .bqUpdateBwLp _ _ _ _ _ => 0
  | .bqUpdateBwHp _ _ _ _ _ => 0
  | .bqUpdateWarmth _ _ _ _ _ => 0
  | .bqUpdateBright _ _ _ _ _ => 0
  | .bqUpdatePresence _ _ _ _ _ => 0
  | .bqUpdateAir _ _ _ _ _ => 0
  | .bqUpdateSubbass _ _ _ _ _ => 0
  | .bqUpdateVocal _ _ _ _ _ => 0
  | .bqUpdateDcblock _ _ _ _ _ => 0
  | .bqUpdateUnity _ _ _ _ _ => 0
  | .bqSetcoef _ _ _ _ _ _ => 0
  | .bqProcess _ _ => 1
  | .bqReset _ => 0
  | .envSettimes _ _ _ _ => 0
  | .envProcess _ _ => 1
  | .envReset _ => 0
  | .compSettimes _ _ _ _ => 0
  | .compProcess _ _ _ _ _ _ => 1
  | .compReset _ => 0
  | .dlConstruct _ _ _ => 0
  | .dlSetrate _ _ _ => 0
  | .dlProcess _ _ _ _ => 1
  | .dlReset _ => 0

/-- How many operand lanes an instruction reads, A0 upwards (rules R72, R75). -/
def operandLanes (i : Instr) : Nat :=
  match i with
  | .coefDeriveLpf _ _ _ _ => 4
  | .coefDeriveHpf _ _ _ _ => 4
  | .coefDeriveBpfPeakq _ _ _ _ => 4
  | .coefDeriveBpf0db _ _ _ _ => 4
  | .coefDeriveNotch _ _ _ _ => 4
  | .coefDeriveApf _ _ _ _ => 4
  | .coefDeriveLp1 _ _ _ _ => 4
  | .coefDeriveHp1 _ _ _ _ => 4
  | .coefDerivePeak _ _ _ _ => 4
  | .coefDeriveLshelf _ _ _ _ => 4
  | .coefDeriveHshelf _ _ _ _ => 4
  | .coefDeriveTilt _ _ _ _ => 4
  | .coefDeriveLrLp _ _ _ _ => 4
  | .coefDeriveLrHp _ _ _ _ => 4
  | .coefDeriveBwLp _ _ _ _ => 4
  | .coefDeriveBwHp _ _ _ _ => 4
  | .coefDeriveWarmth _ _ _ _ => 4
  | .coefDeriveBright _ _ _ _ => 4
  | .coefDerivePresence _ _ _ _ => 4
  | .coefDeriveAir _ _ _ _ => 4
  | .coefDeriveSubbass _ _ _ _ => 4
  | .coefDeriveVocal _ _ _ _ => 4
  | .coefDeriveDcblock _ _ _ _ => 4
  | .coefDeriveUnity _ _ _ _ => 4
  | .bqUpdateLpf _ _ _ _ _ => 4
  | .bqUpdateHpf _ _ _ _ _ => 4
  | .bqUpdateBpfPeakq _ _ _ _ _ => 4
  | .bqUpdateBpf0db _ _ _ _ _ => 4
  | .bqUpdateNotch _ _ _ _ _ => 4
  | .bqUpdateApf _ _ _ _ _ => 4
  | .bqUpdateLp1 _ _ _ _ _ => 4
  | .bqUpdateHp1 _ _ _ _ _ => 4
  | .bqUpdatePeak _ _ _ _ _ => 4
  | .bqUpdateLshelf _ _ _ _ _ => 4
  | .bqUpdateHshelf _ _ _ _ _ => 4
  | .bqUpdateTilt _ _ _ _ _ => 4
  | .bqUpdateLrLp _ _ _ _ _ => 4
  | .bqUpdateLrHp _ _ _ _ _ => 4
  | .bqUpdateBwLp _ _ _ _ _ => 4
  | .bqUpdateBwHp _ _ _ _ _ => 4
  | .bqUpdateWarmth _ _ _ _ _ => 4
  | .bqUpdateBright _ _ _ _ _ => 4
  | .bqUpdatePresence _ _ _ _ _ => 4
  | .bqUpdateAir _ _ _ _ _ => 4
  | .bqUpdateSubbass _ _ _ _ _ => 4
  | .bqUpdateVocal _ _ _ _ _ => 4
  | .bqUpdateDcblock _ _ _ _ _ => 4
  | .bqUpdateUnity _ _ _ _ _ => 4
  | .bqSetcoef _ _ _ _ _ _ => 5
  | .bqProcess _ _ => 1
  | .bqReset _ => 0
  | .envSettimes _ _ _ _ => 3
  | .envProcess _ _ => 1
  | .envReset _ => 0
  | .compSettimes _ _ _ _ => 3
  | .compProcess _ _ _ _ _ _ => 5
  | .compReset _ => 0
  | .dlConstruct _ _ _ => 2
  | .dlSetrate _ _ _ => 2
  | .dlProcess _ _ _ _ => 3
  | .dlReset _ => 0

/-- Operand lane `k` of a command: A0 to A4. -/
def laneOf (c : Command) (k : Fin 5) : F32 :=
  match k with
  | 0 => c.a0
  | 1 => c.a1
  | 2 => c.a2
  | 3 => c.a3
  | 4 => c.a4

/-- The number of lanes in a response. -/
def Response.lanes (r : Response) : Nat :=
  match r with
  | .empty => 0
  | .value _ => 1
  | .coefs _ => 5

/-! ### Sequences of commands -/

/-- The responses of a sequence of commands executed from a state, up to and without the first that does not complete. -/
def responses (is : List Instr) (s : State) : List Response :=
  match is with
  | [] => []
  | i :: rest =>
    match exec i s with
    | .next t => t.response.getD .empty :: responses rest t
    | _ => []

/-- The operands of one `DL_PROCESS`: input, delayMs, feedback. -/
structure DelayInput where
  input : F32
  delayMs : F32
  feedback : F32
deriving DecidableEq, Repr

/-- The results of a sequence of `DL_PROCESS #i` commands executed from a state, if every one completes. -/
def delayRun (i : BitVec 8) (xs : List DelayInput) (s : State) : Option (List F32) :=
  match xs with
  | [] => some []
  | x :: rest =>
    match exec (.dlProcess i x.input x.delayMs x.feedback) s with
    | .next t =>
      match t.response with
      | some (.value r0) => (delayRun i rest t).map (r0 :: ·)
      | _ => none
    | _ => none

/-- The law of rule R251, on the values written so far, the latest first: a delay of `d ≥ 1` samples returns the value written
`d` commands ago, a delay of 0 the one written `L` commands ago, and +0.0 where there is none. -/
def delayLaw (rate : F32) (L : Nat) (written : List F32) (xs : List DelayInput) : List F32 :=
  match xs with
  | [] => []
  | x :: rest =>
    let d := delaySamples x.delayMs rate L
    let out := (written[(if d = 0 then L else d) - 1]?).getD litZero
    out :: delayLaw rate L (fadd x.input (fmul out x.feedback) :: written) rest

/-! ### Correct rounding (rule R101) -/

/-- The least magnitude, in units of 2^-149, that rounds to an infinity: half a place above the largest finite value. -/
def overflowUnits : Nat := (2 ^ 25 - 1) * 2 ^ 252

/-- `r` is the exact value of `num / den` units of 2^-149 rounded to binary32, to nearest, ties to even, with an infinity on
overflow and the sign of the exact value where that is not zero. -/
def Rounded (num : Int) (den : Nat) (r : F32) : Prop :=
  (num ≠ 0 → fsign r = decide (num < 0)) ∧
  ((overflowUnits * den : Nat) ≤ |num| → isInf r = true) ∧
  (|num| < (overflowUnits * den : Nat) → isFinite r = true ∧
    ∀ z : F32, isFinite z = true →
      |units r * den - num| ≤ |units z * den - num| ∧
      (|units r * den - num| = |units z * den - num| → units z ≠ units r → fmag r % 2 = 0))

end Sys2Proof.Machine
end

