-- ==== Sys2Proof/Certificates/Slice0/Obligations.lean ====
section
/-! DEFINITION. The statements for the provers. Each one's docstring names the rule of spec/ it formalises, or the model's own
choice it rests on. A state after a command is written out as an update of the state before it, so that what is not named is
unchanged. -/

open Sys2Proof Sys2Proof.Machine

/-! ### Encoding -/

/-- Command words written out from the encoding of rules R71, R75, R76 and R80 decode to the commands they stand for. -/
def Obligations.CommandWordsOfTheSpecDecode : Prop :=
  ∀ a0 a1 a2 a3 a4 : F32,
    decode ⟨0x13010000, a0, a1, a2, a3, a4⟩ = .ok (.bqProcess 1 a0) ∧
    decode ⟨0x1100000A, a0, a1, a2, a3, a4⟩ = .ok (.bqUpdateHshelf 0 a0 a1 a2 a3) ∧
    decode ⟨0x10000017, a0, a1, a2, a3, a4⟩ = .ok (.coefDeriveUnity a0 a1 a2 a3) ∧
    decode ⟨0x42010000, a0, a1, a2, a3, a4⟩ = .ok (.dlProcess 1 a0 a1 a2) ∧
    decode ⟨0x20000000, a0, a1, a2, a3, a4⟩ = .ok (.envSettimes 0 a0 a1 a2) ∧
    decode ⟨0x31000000, a0, a1, a2, a3, a4⟩ = .ok (.compProcess 0 a0 a1 a2 a3 a4) ∧
    decode ⟨0x43010000, a0, a1, a2, a3, a4⟩ = .ok (.dlReset 1)

/-- Decoding the encoding of an instruction gives it back, for every instruction and every operand (rules R71, R75, R76, R80). -/
def Obligations.DecodeOfEncode : Prop :=
  ∀ i : Instr, decode (encode i) = .ok i

/-- A word that decodes is the encoding of what it decodes to, in its command word and in every operand lane the instruction
reads; and no other lane has an influence on what is decoded (rules R71, R72). -/
def Obligations.EncodeOfDecode : Prop :=
  ∀ (c : Command) (i : Instr), decode c = .ok i →
    (encode i).cw = c.cw ∧
    (∀ k : Fin 5, k.val < operandLanes i → laneOf (encode i) k = laneOf c k) ∧
    ∀ c' : Command, c'.cw = c.cw → (∀ k : Fin 5, k.val < operandLanes i → laneOf c' k = laneOf c k) → decode c' = .ok i

/-- Rules R77 and R78: exactly these command words are illegal, and a step on one is refused. -/
def Obligations.IllegalCommandWords : Prop :=
  ∀ (s : State) (c : Command),
    let op := (opcodeByte c.cw).toNat
    let inst := (instField c.cw).toNat
    let ftype := (ftypeField c.cw).toNat
    step (s.issue c) = .refused .illegalCommand ↔
      op ∉ [0x10, 0x11, 0x12, 0x13, 0x14, 0x20, 0x21, 0x22, 0x30, 0x31, 0x32, 0x40, 0x41, 0x42, 0x43] ∨
      rsvdField c.cw ≠ 0 ∨
      (op ∉ [0x10, 0x11] ∧ ftype ≠ 0) ∨
      (op ∈ [0x10, 0x11] ∧ 24 ≤ ftype) ∨
      (op = 0x10 ∧ inst ≠ 0) ∨
      (op ∈ [0x11, 0x12, 0x13, 0x14] ∧ s.bq.length ≤ inst) ∨
      (op ∈ [0x20, 0x21, 0x22] ∧ s.ef.length ≤ inst) ∨
      (op ∈ [0x30, 0x31, 0x32] ∧ s.comp.length ≤ inst) ∨
      (op ∈ [0x40, 0x41, 0x42, 0x43] ∧ s.dl.length ≤ inst)

/-! ### The machine -/

/-- A step takes the first command off the port and is the execution of the instruction it decodes to (rules R56, R70); the
port, the idle step and the table word are the model's own (logs 1, 3, 14). -/
def Obligations.StepRunsTheDecodedInstruction : Prop :=
  (∀ (s : State) (c : Command) (rest : List Command) (i : Instr),
    s.port = c :: rest → decode c = .ok i → step s = exec i { s with port := rest }) ∧
  (∀ (s : State) (nbits w : Nat) (i : Instr),
    decodeTableWord nbits w = some i → step (s.withFetchWord nbits w) = exec i s) ∧
  (∀ s : State, s.port = [] → step s = .next s)

/-- Rule R290: what power-on reset leaves. -/
def Obligations.PowerOnValues : Prop :=
  ∀ s : State, (s = State.reset ∨ ∃ n p, s = State.powerOn n p) →
    (∀ b ∈ s.bq, b.x1 = litZero ∧ b.x2 = litZero ∧ b.y1 = litZero ∧ b.y2 = litZero ∧ b.coefWritten = false) ∧
    (∀ e ∈ s.ef, e.env = litZero ∧ e.timesWritten = false) ∧
    (∀ c ∈ s.comp, c.ef.env = litZero ∧ c.ef.timesWritten = false) ∧
    (∀ d ∈ s.dl, d.configured = false)

/-- The machine after power-on meets the invariant, for every count and parameter in the range of rule R6. -/
def Obligations.PowerOnMeetsTheInvariant : Prop :=
  State.reset.inv = true ∧
    ∀ (n : Counts) (p : Params), n.inRange = true → Params.inRange p = true → (State.powerOn n p).inv = true

/-- Every step keeps the invariant: the counts and parameters in range, an unwritten unit as power-on left it, outputs and
envelopes flushed, rule R35 of every configured line, and every delay memory in canonical form (log 12). -/
def Obligations.StepKeepsTheInvariant : Prop :=
  ∀ s t : State, s.inv = true → step s = .next t → t.inv = true

/-- The spec's inference of rule R35: the bounds of a configured line hold after every command, and cells at or past `len` are
unreachable. -/
def Obligations.ConfiguredLinesStayInBounds : Prop :=
  ∀ s t : State,
    (∀ d ∈ s.dl, d.configured = true → 1 ≤ d.len ∧ d.len ≤ s.params.dlMaxLen ∧ d.wpos < d.len) → step s = .next t →
    (∀ d ∈ t.dl, d.configured = true → 1 ≤ d.len ∧ d.len ≤ t.params.dlMaxLen ∧ d.wpos < d.len) ∧
    (∀ d ∈ t.dl, ∀ (n : Nat) (v : F32), d.len ≤ n → d.read n = none ∧ d.write n v = none)

/-- No command faults on a machine that meets the invariant (rules R54, R270). -/
def Obligations.NoFaultUnderTheInvariant : Prop :=
  ∀ s : State, s.inv = true → (∀ (i : Instr) (r : Fault), exec i s ≠ .fault r) ∧ ∀ r : Fault, step s ≠ .fault r

/-- Every legal instruction that is ready completes, whatever its operands, and its response has the lanes of rule R73: for every
constructor of Instr. Ready is what rule R271 asks and the refusals of rule R277 leave: coefficients written for the three
process commands that read them, a line configured, a length within capacity. -/
def Obligations.LegalCommandsComplete : Prop :=
  ∀ (s : State) (i : Instr), s.inv = true → i.wellFormed s.counts = true → ready s i = true →
    ∃ t r, exec i s = .next t ∧ t.response = some r ∧ r.lanes = resultLanes i

/-- Rules R273 and R277: the refusals, each exactly where its rule says, the first check that fails deciding. -/
def Obligations.RefusalsAreTheFour : Prop :=
  ∀ (s : State) (i : Instr),
    (∀ (c : Command) (e : DecodeError), decode c = .error e → step (s.issue c) = .refused .illegalCommand) ∧
    (i.wellFormed s.counts = false → exec i s = .refused .illegalCommand) ∧
    (i.wellFormed s.counts = true →
      (∀ r, exec i s = .refused r → r = .unwrittenCoefficients ∨ r = .unconfigured ∨ r = .overCapacity) ∧
      (exec i s = .refused .unwrittenCoefficients ↔
        (∃ n x b, i = .bqProcess n x ∧ s.bq[n.toNat]? = some b ∧ b.coefWritten = false) ∨
        (∃ n x e, i = .envProcess n x ∧ s.ef[n.toNat]? = some e ∧ e.timesWritten = false) ∨
        (∃ n l r thr ratio knee c, i = .compProcess n l r thr ratio knee ∧ s.comp[n.toNat]? = some c ∧
          c.ef.timesWritten = false)) ∧
      (exec i s = .refused .unconfigured ↔
        ∃ n d, s.dl[n.toNat]? = some d ∧ d.configured = false ∧
          ((∃ x ms fb, i = .dlProcess n x ms fb) ∨ i = .dlReset n ∨ ∃ rate ms, i = .dlSetrate n rate ms)) ∧
      (exec i s = .refused .overCapacity ↔
        (∃ n ms sr, i = .dlConstruct n ms sr ∧ s.params.dlMaxLen < dlLength ms sr) ∨
        (∃ n rate ms d, i = .dlSetrate n rate ms ∧ s.dl[n.toNat]? = some d ∧ d.configured = true ∧
          s.params.dlMaxLen < dlLength ms rate)))

/-- A command changes the cells of the one instance it names and no others; the parameters, the counts and the commands
waiting are unchanged (rules R5, R20, R51): the frame of every instruction. -/
def Obligations.OnlyTheNamedInstanceChanges : Prop :=
  ∀ (s t : State) (i : Instr), exec i s = .next t →
    t.params = s.params ∧ t.port = s.port ∧ t.counts = s.counts ∧
    (∀ n, target i ≠ .bq n → t.bq[n]? = s.bq[n]?) ∧
    (∀ n, target i ≠ .ef n → t.ef[n]? = s.ef[n]?) ∧
    (∀ n, target i ≠ .comp n → t.comp[n]? = s.comp[n]?) ∧
    (∀ n, target i ≠ .dl n → t.dl[n]? = s.dl[n]?)

/-- The marks `coef_written`, `times_written` and `configured` are never cleared (rules R22, R30, R36, R291). -/
def Obligations.MarksAreNeverCleared : Prop :=
  ∀ s t : State, step s = .next t → ∀ n : Nat,
    (∀ b, s.bq[n]? = some b → b.coefWritten = true → ∃ b', t.bq[n]? = some b' ∧ b'.coefWritten = true) ∧
    (∀ e, s.ef[n]? = some e → e.timesWritten = true → ∃ e', t.ef[n]? = some e' ∧ e'.timesWritten = true) ∧
    (∀ c, s.comp[n]? = some c → c.ef.timesWritten = true → ∃ c', t.comp[n]? = some c' ∧ c'.ef.timesWritten = true) ∧
    (∀ d, s.dl[n]? = some d → d.configured = true → ∃ d', t.dl[n]? = some d' ∧ d'.configured = true)

/-- Two commands that name different instances (or no instance) commute: the same final state and the same two responses in
either order (the spec's inference of rule R279). That the responses agree bit for bit rests on two choices of the model: the
bits of a NaN result are a function of the operands (log 7), and the draw of an unchanged `DL_SETRATE` is fixed by the line's own
count (log 9). -/
def Obligations.IndependentCommandsCommute : Prop :=
  ∀ (s s1 s12 : State) (i j : Instr), (target i = .none ∨ target i ≠ target j) →
    exec i s = .next s1 → exec j s1 = .next s12 →
    ∃ s2 s21, exec j s = .next s2 ∧ exec i s2 = .next s21 ∧
      s1.response = s21.response ∧ s12.response = s2.response ∧
      { s12 with response := none } = { s21 with response := none }

/-- A command's response and what it does to its instance depend on that instance, its operands and the parameters alone
(rules R5, R20). That they agree bit for bit rests on two choices of the model: the bits of a NaN result are a function of the
operands (log 7, DEDUCED; named there as unsafe), and the draw of an unchanged `DL_SETRATE` is fixed by the line's own count
(log 9). -/
def Obligations.CommandsReadOnlyTheirInstance : Prop :=
  ∀ (s u s' : State) (i : Instr), s.params = u.params →
    (∀ n, target i = .bq n → s.bq[n]? = u.bq[n]?) → (∀ n, target i = .ef n → s.ef[n]? = u.ef[n]?) →
    (∀ n, target i = .comp n → s.comp[n]? = u.comp[n]?) → (∀ n, target i = .dl n → s.dl[n]? = u.dl[n]?) →
    exec i s = .next s' →
    ∃ u', exec i u = .next u' ∧ u'.response = s'.response ∧
      (∀ n, target i = .bq n → u'.bq[n]? = s'.bq[n]?) ∧ (∀ n, target i = .ef n → u'.ef[n]? = s'.ef[n]?) ∧
      (∀ n, target i = .comp n → u'.comp[n]? = s'.comp[n]?) ∧ (∀ n, target i = .dl n → u'.dl[n]? = s'.dl[n]?)

/-! ### The coefficient engine -/

/-- Rule R130: `COEF_DERIVE.<T>`, for each of the 24 types. -/
def Obligations.CoefDeriveAnswersTheFiveCoefficients : Prop :=
  ∀ (t : FilterType) (f q g sr a4 : F32) (s : State),
    decode ⟨commandWord 0x10 0 t.code, f, q, g, sr, a4⟩ = .ok (Instr.coefDerive t f q g sr) ∧
    exec (Instr.coefDerive t f q g sr) s =
      .next { s with response := some (.coefs (derive s.params Config.num Config.tiltRaw t f q g sr)) }

/-- Rule R181: `BQ_UPDATE.<T>`, for each of the 24 types. -/
def Obligations.BqUpdateStoresTheDerivation : Prop :=
  ∀ (t : FilterType) (i : BitVec 8) (f q g sr a4 : F32) (s : State),
    decode ⟨commandWord 0x11 i t.code, f, q, g, sr, a4⟩ = .ok (Instr.bqUpdate t i f q g sr) ∧
    ∀ b, s.bq[i.toNat]? = some b →
      exec (Instr.bqUpdate t i f q g sr) s =
        .next { s with
          bq := s.bq.set i.toNat
            { b with coef := derive s.params Config.num Config.tiltRaw t f q g sr, coefWritten := true }
          response := some .empty }

/-- Rules R132 and R134, with the clamp and the two factors they use: the prelude and the end of every derivation. -/
def Obligations.DerivationPreludeAndNormalisation : Prop :=
  ∀ (N : Numerics) (f sr : F32),
    (let x := filterContext N f sr
     x.f = fmin (fmax f litOne) (fmul lit0p499 sr) ∧ x.w0 = fdiv (fmul litTwoPi x.f) sr ∧
       x.cs = N.fcos x.w0 ∧ x.sn = N.fsin x.w0 ∧
       (∀ q, alpha x q = fdiv x.sn (fmul litTwo q)) ∧ ∀ g, gainA N g = N.fpow10 (fdiv g lit40)) ∧
    ∀ b0r b1r b2r a0r a1r a2r,
      normalise ⟨b0r, b1r, b2r, a0r, a1r, a2r⟩ = ⟨fdiv b0r a0r, fdiv b1r a0r, fdiv b2r a0r, fdiv a1r a0r, fdiv a2r a0r⟩

/-- What the frequency clamp of rule R131 gives: inside `[1, 0.499·sr]` under the contract, 1.0 for a NaN frequency, and the
cases of a zero and of a NaN rate. -/
def Obligations.FrequencyClampBounds : Prop :=
  ∀ f sr : F32,
    (isFinite sr = true → fle litOne (fmul lit0p499 sr) = true →
      fle litOne (clampf f sr) = true ∧ fle (clampf f sr) (fmul lit0p499 sr) = true ∧
        (isNaN f = true → clampf f sr = litOne)) ∧
    (isZero sr = true → isZero (clampf f sr) = true ∧ isNaN (omega (clampf f sr) sr) = true) ∧
    (isNaN sr = true → clampf f sr = fmax f litOne ∧ isNaN (omega (clampf f sr) sr) = true)

/-- Rules R136 to R141: the six basic 2-pole types and their codes, the band-pass pair under each `BPF_GAIN_ASSIGNMENT`. -/
def Obligations.BasicTwoPoleTypes : Prop :=
  ∀ (P : Params) (N : Numerics) (tilt : TiltArgs → RawCoefs) (f q g sr : F32),
    let x := filterContext N f sr
    let al := alpha x q
    let a0r := fadd litOne al
    let a1r := fmul litNegTwo x.cs
    let a2r := fsub litOne al
    [FilterType.lpf, .hpf, .bpfPeakq, .bpf0db, .notch, .apf].map FilterType.code = [0, 1, 2, 3, 4, 5] ∧
    derive P N tilt .lpf f q g sr =
      normalise ⟨fdiv (fsub litOne x.cs) litTwo, fsub litOne x.cs, fdiv (fsub litOne x.cs) litTwo, a0r, a1r, a2r⟩ ∧
    derive P N tilt .hpf f q g sr =
      normalise ⟨fdiv (fadd litOne x.cs) litTwo, fneg (fadd litOne x.cs), fdiv (fadd litOne x.cs) litTwo, a0r, a1r, a2r⟩ ∧
    (P.bpfGainAssignment = .asWritten →
      derive P N tilt .bpfPeakq f q g sr = normalise ⟨al, litZero, fneg al, a0r, a1r, a2r⟩ ∧
      derive P N tilt .bpf0db f q g sr = normalise ⟨fmul q al, litZero, fneg (fmul q al), a0r, a1r, a2r⟩) ∧
    (P.bpfGainAssignment = .asNamed →
      derive P N tilt .bpfPeakq f q g sr = normalise ⟨fmul q al, litZero, fneg (fmul q al), a0r, a1r, a2r⟩ ∧
      derive P N tilt .bpf0db f q g sr = normalise ⟨al, litZero, fneg al, a0r, a1r, a2r⟩) ∧
    derive P N tilt .notch f q g sr = normalise ⟨litOne, a1r, litOne, a0r, a1r, a2r⟩ ∧
    derive P N tilt .apf f q g sr = normalise ⟨a2r, a1r, a0r, a0r, a1r, a2r⟩

/-- Rules R142 and R143: the 1-pole types and their codes, under each `ONEPOLE_K_READING`. -/
def Obligations.OnePoleTypes : Prop :=
  ∀ (P : Params) (N : Numerics) (tilt : TiltArgs → RawCoefs) (f q g sr k : F32),
    let x := filterContext N f sr
    ((P.onepoleKReading = .asWritten ∧ k = fdiv (N.ftan x.w0) litTwo) ∨
      (P.onepoleKReading = .halfAngle ∧ k = N.ftan (fdiv x.w0 litTwo))) →
    FilterType.lp1.code = 6 ∧ FilterType.hp1.code = 7 ∧
    derive P N tilt .lp1 f q g sr = normalise ⟨k, k, litZero, fadd litOne k, fsub k litOne, litZero⟩ ∧
    derive P N tilt .hp1 f q g sr = normalise ⟨litOne, litNegOne, litZero, fadd litOne k, fsub k litOne, litZero⟩

/-- Rules R144, R154 and R157: the peaking types, with the fixed Q and the 3 dB floor of the two characters. -/
def Obligations.PeakingTypes : Prop :=
  ∀ (P : Params) (N : Numerics) (tilt : TiltArgs → RawCoefs) (f q g sr : F32),
    let x := filterContext N f sr
    let chargain := N.fpow10 (fdiv (fmax g litThree) lit40)
    let pk := fun al A : F32 =>
      normalise ⟨fadd litOne (fmul al A), fmul litNegTwo x.cs, fsub litOne (fmul al A),
        fadd litOne (fdiv al A), fmul litNegTwo x.cs, fsub litOne (fdiv al A)⟩
    [FilterType.peak, .presence, .vocal].map FilterType.code = [8, 18, 21] ∧
    derive P N tilt .peak f q g sr = pk (fdiv x.sn (fmul litTwo q)) (N.fpow10 (fdiv g lit40)) ∧
    derive P N tilt .presence f q g sr = pk (fdiv x.sn (fmul litTwo lit1p5)) chargain ∧
    derive P N tilt .vocal f q g sr = pk (fdiv x.sn (fmul litTwo litTwo)) chargain

/-- Rules R145, R146, R152, R153, R155 and R156: the shelf types, the side of each character by `CHAR_SHELF_SIDE`. -/
def Obligations.ShelfTypes : Prop :=
  ∀ (P : Params) (N : Numerics) (tilt : TiltArgs → RawCoefs) (f q g sr : F32),
    let x := filterContext N f sr
    let chargain := N.fpow10 (fdiv (fmax g litThree) lit40)
    let lsh := fun al A : F32 =>
      let beta := fmul (fmul litTwo (fsqrt A)) al
      let Ap := fadd A litOne
      let Am := fsub A litOne
      let p := fsub Ap (fmul Am x.cs)
      let m := fadd Ap (fmul Am x.cs)
      normalise ⟨fmul A (fadd p beta), fmul (fmul litTwo A) (fsub Am (fmul Ap x.cs)), fmul A (fsub p beta),
        fadd m beta, fmul litNegTwo (fadd Am (fmul Ap x.cs)), fsub m beta⟩
    let hsh := fun al A : F32 =>
      let beta := fmul (fmul litTwo (fsqrt A)) al
      let Ap := fadd A litOne
      let Am := fsub A litOne
      let p := fsub Ap (fmul Am x.cs)
      let m := fadd Ap (fmul Am x.cs)
      normalise ⟨fmul A (fadd m beta), fneg (fmul (fmul litTwo A) (fadd Am (fmul Ap x.cs))), fmul A (fsub m beta),
        fadd p beta, fmul litTwo (fsub Am (fmul Ap x.cs)), fsub p beta⟩
    let sided := fun (side : ShelfSide) (al A : F32) => if side = .low then lsh al A else hsh al A
    [FilterType.lshelf, .hshelf, .warmth, .bright, .air, .subbass].map FilterType.code = [9, 10, 16, 17, 19, 20] ∧
    derive P N tilt .lshelf f q g sr = lsh (fdiv x.sn (fmul litTwo q)) (N.fpow10 (fdiv g lit40)) ∧
    derive P N tilt .hshelf f q g sr = hsh (fdiv x.sn (fmul litTwo q)) (N.fpow10 (fdiv g lit40)) ∧
    derive P N tilt .warmth f q g sr = sided P.charShelfSide.warmth (fdiv x.sn (fmul litTwo lit0p6)) chargain ∧
    derive P N tilt .bright f q g sr = sided P.charShelfSide.bright (fdiv x.sn (fmul litTwo lit0p7)) chargain ∧
    derive P N tilt .air f q g sr = sided P.charShelfSide.air (fdiv x.sn (fmul litTwo litHalf)) chargain ∧
    derive P N tilt .subbass f q g sr = sided P.charShelfSide.subbass (fdiv x.sn (fmul litTwo lit0p8)) chargain

/-- Rules R148 to R151 and R158: the fixed-Q types and the DC block are the low-pass and the high-pass with their own Q; and
the Linkwitz-Riley alpha is sin ω0 itself. -/
def Obligations.FixedQTypesAndDcBlock : Prop :=
  ∀ (P : Params) (N : Numerics) (tilt : TiltArgs → RawCoefs) (f q g sr g' f' : F32),
    [FilterType.lrLp, .lrHp, .bwLp, .bwHp, .dcblock].map FilterType.code = [12, 13, 14, 15, 22] ∧
    derive P N tilt .lrLp f q g sr = derive P N tilt .lpf f litHalf g' sr ∧
    derive P N tilt .lrHp f q g sr = derive P N tilt .hpf f litHalf g' sr ∧
    derive P N tilt .bwLp f q g sr = derive P N tilt .lpf f litInvSqrt2 g' sr ∧
    derive P N tilt .bwHp f q g sr = derive P N tilt .hpf f litInvSqrt2 g' sr ∧
    derive P N tilt .dcblock f' q g sr = derive P N tilt .hpf P.dcblockFreqHz P.dcblockQ g' sr ∧
    (isNaN (filterContext N f sr).sn = false → alpha (filterContext N f sr) litHalf = (filterContext N f sr).sn)

/-- Rules R147 and R159: the tilt type over the parameter `TILT_RAW` (log 6), and the unity type. -/
def Obligations.TiltAndUnityTypes : Prop :=
  ∀ (P : Params) (N : Numerics) (tilt : TiltArgs → RawCoefs) (f q g sr : F32),
    FilterType.tilt.code = 11 ∧ FilterType.unity.code = 23 ∧
    (let x := filterContext N f sr
     let At := N.fpow10 (fdiv g lit20)
     derive P N tilt .tilt f q g sr =
       normalise (tilt ⟨x.f, x.w0, x.cs, x.sn, fdiv x.sn (fmul litTwo q), N.fpow10 (fdiv g lit40), At, fsqrt At⟩)) ∧
    derive P N tilt .unity f q g sr = normalise ⟨litOne, litZero, litZero, litOne, litZero, litZero⟩ ∧
    derive P N tilt .unity f q g sr = ⟨litOne, litZero, litZero, litZero, litZero⟩

/-- The spec's inference of rule R141: the all-pass has `b2 = a0r/a0r = 1.0` exactly, `b0 = a2` and `b1 = a1` bit for bit, where a0r is
finite and not zero. -/
def Obligations.AllPassCoefficientsPair : Prop :=
  ∀ (P : Params) (N : Numerics) (tilt : TiltArgs → RawCoefs) (f q g sr : F32),
    let c := derive P N tilt .apf f q g sr
    let a0r := fadd litOne (alpha (filterContext N f sr) q)
    c.b0 = c.a2 ∧ c.b1 = c.a1 ∧ (isFinite a0r = true → isZero a0r = false → c.b2 = litOne)

/-- The spec's inference of rule R160, with the table of rule R76: a lane a type does not read has no influence on the result. -/
def Obligations.UnreadLanesHaveNoInfluence : Prop :=
  ∀ (P : Params) (N : Numerics) (tilt : TiltArgs → RawCoefs) (t : FilterType) (f q g sr v : F32),
    (t ∉ [.lpf, .hpf, .bpfPeakq, .bpf0db, .notch, .apf, .peak, .lshelf, .hshelf, .tilt] →
      derive P N tilt t f q g sr = derive P N tilt t f v g sr) ∧
    (t ∉ [.peak, .lshelf, .hshelf, .tilt, .warmth, .bright, .presence, .air, .subbass, .vocal] →
      derive P N tilt t f q g sr = derive P N tilt t f q v sr) ∧
    (t ∈ [.dcblock, .unity] → derive P N tilt t f q g sr = derive P N tilt t v q g sr) ∧
    (t = .unity → derive P N tilt t f q g sr = derive P N tilt t f q g v)

/-- The gain floor of the six character types (41, section 7): a gain that is a NaN or at most 3 dB acts as 3 dB, a larger one
as itself. -/
def Obligations.CharacterGainFloor : Prop :=
  ∀ (P : Params) (N : Numerics) (tilt : TiltArgs → RawCoefs) (t : FilterType) (f q g sr : F32),
    t ∈ [.warmth, .bright, .presence, .air, .subbass, .vocal] →
    ((isNaN g = true ∨ fle g litThree = true) →
      chargain N g = N.fpow10 (fdiv litThree lit40) ∧ derive P N tilt t f q g sr = derive P N tilt t f q litThree sr) ∧
    (fgt g litThree = true → chargain N g = N.fpow10 (fdiv g lit40))

/-! ### The biquad stage -/

/-- Rule R182: `BQ_SETCOEF`. -/
def Obligations.BqSetcoefStoresItsOperands : Prop :=
  ∀ (i : BitVec 8) (b0 b1 b2 a1 a2 : F32) (s : State),
    decode ⟨commandWord 0x12 i 0, b0, b1, b2, a1, a2⟩ = .ok (.bqSetcoef i b0 b1 b2 a1 a2) ∧
    ∀ b, s.bq[i.toNat]? = some b →
      exec (.bqSetcoef i b0 b1 b2 a1 a2) s =
        .next { s with
          bq := s.bq.set i.toNat { b with coef := ⟨b0, b1, b2, a1, a2⟩, coefWritten := true }
          response := some .empty }

/-- Rule R183: `BQ_PROCESS` and its refusal. -/
def Obligations.BqProcessRunsTheRecurrence : Prop :=
  ∀ (i : BitVec 8) (input a1 a2 a3 a4 : F32) (s : State),
    decode ⟨commandWord 0x13 i 0, input, a1, a2, a3, a4⟩ = .ok (.bqProcess i input) ∧
    ∀ b, s.bq[i.toNat]? = some b →
      (b.coefWritten = false → exec (.bqProcess i input) s = .refused .unwrittenCoefficients) ∧
      (b.coefWritten = true →
        let acc := fsub (fsub (fadd (fadd (fmul b.coef.b0 input) (fmul b.coef.b1 b.x1)) (fmul b.coef.b2 b.x2))
          (fmul b.coef.a1 b.y1)) (fmul b.coef.a2 b.y2)
        let out := flush acc litBiquadFlush
        exec (.bqProcess i input) s =
          .next { s with
            bq := s.bq.set i.toNat { b with x1 := input, x2 := b.x1, y1 := out, y2 := b.y1 }
            response := some (.value out) })

/-- Rules R184, R203 and R224: the resets of the stage, the follower and the compressor, legal before anything was written,
and equal to one when issued twice. -/
def Obligations.UnitResetsZeroTheSignalState : Prop :=
  ∀ (i : BitVec 8) (a0 a1 a2 a3 a4 : F32) (s : State),
    (decode ⟨commandWord 0x14 i 0, a0, a1, a2, a3, a4⟩ = .ok (.bqReset i) ∧
     decode ⟨commandWord 0x22 i 0, a0, a1, a2, a3, a4⟩ = .ok (.envReset i) ∧
     decode ⟨commandWord 0x32 i 0, a0, a1, a2, a3, a4⟩ = .ok (.compReset i)) ∧
    (∀ b, s.bq[i.toNat]? = some b →
      exec (.bqReset i) s =
        .next { s with
          bq := s.bq.set i.toNat { b with x1 := litZero, x2 := litZero, y1 := litZero, y2 := litZero }
          response := some .empty }) ∧
    (∀ e, s.ef[i.toNat]? = some e →
      exec (.envReset i) s =
        .next { s with ef := s.ef.set i.toNat { e with env := litZero }, response := some .empty }) ∧
    (∀ c, s.comp[i.toNat]? = some c →
      exec (.compReset i) s =
        .next { s with comp := s.comp.set i.toNat ⟨{ c.ef with env := litZero }⟩, response := some .empty }) ∧
    (∀ t, (exec (.bqReset i) s = .next t → exec (.bqReset i) t = .next t) ∧
      (exec (.envReset i) s = .next t → exec (.envReset i) t = .next t) ∧
      (exec (.compReset i) s = .next t → exec (.compReset i) t = .next t))

/-- The spec's inference of rule R188 for unity: with UNITY coefficients and a finite history, a finite input of at least 1e-11 comes out
as it is, a smaller one as +0.0. -/
def Obligations.UnityPassesThrough : Prop :=
  ∀ (b : Biquad) (x : F32), b.coef = ⟨litOne, litZero, litZero, litZero, litZero⟩ →
    isFinite b.x1 = true → isFinite b.x2 = true → isFinite b.y1 = true → isFinite b.y2 = true → isFinite x = true →
    (fge (fabs x) litBiquadFlush = true → b.output x = x) ∧
    (flt (fabs x) litBiquadFlush = true → b.output x = litZero)

/-- The spec's inference of rule R302: a NaN that enters a biquad's history, a follower's envelope or a delay buffer stays. A
biquad fed a NaN, or with one anywhere in its history, answers a NaN and keeps one as its last output; a follower with a NaN
envelope, or fed one, keeps it; a delay line that reads a NaN, or is fed one, writes one. -/
def Obligations.NaNSticks : Prop :=
  (∀ (i : BitVec 8) (x : F32) (s t : State) (b : Biquad), s.bq[i.toNat]? = some b →
    (isNaN x = true ∨ isNaN b.x1 = true ∨ isNaN b.x2 = true ∨ isNaN b.y1 = true ∨ isNaN b.y2 = true) →
    exec (.bqProcess i x) s = .next t →
    ∃ r b', t.response = some (.value r) ∧ isNaN r = true ∧ t.bq[i.toNat]? = some b' ∧ isNaN b'.y1 = true) ∧
  (∀ (i : BitVec 8) (x : F32) (s t : State) (e : Follower), s.ef[i.toNat]? = some e → (isNaN x = true ∨ isNaN e.env = true) →
    exec (.envProcess i x) s = .next t →
    ∃ r e', t.response = some (.value r) ∧ isNaN r = true ∧ t.ef[i.toNat]? = some e' ∧ isNaN e'.env = true) ∧
  (∀ (i : BitVec 8) (l r thr ratio knee : F32) (s t : State) (c : Compressor), s.comp[i.toNat]? = some c →
    (isNaN c.ef.env = true ∨ (isNaN l = true ∧ isNaN r = true)) → exec (.compProcess i l r thr ratio knee) s = .next t →
    ∃ c', t.comp[i.toNat]? = some c' ∧ isNaN c'.ef.env = true) ∧
  (∀ (i : BitVec 8) (x ms fb : F32) (s t : State) (d : DelayLine), s.dl[i.toNat]? = some d → memWf d.len d.buf = true →
    exec (.dlProcess i x ms fb) s = .next t →
    (isNaN x = true ∨ ∃ r, t.response = some (.value r) ∧ isNaN r = true) →
    ∃ d', t.dl[i.toNat]? = some d' ∧ isNaN (memRead d'.buf d.wpos) = true)

/-- Rule R292: after a unit's reset, the responses to any sequence of commands on it are those of a freshly constructed
instance that was given the same parameters; stated for the four units. That they agree bit for bit rests on two choices of the
model: the bits of a NaN result are a function of the operands (log 7, named there as unsafe), and the draw of an unchanged
`DL_SETRATE` is fixed by the line's own count `choices`, which is taken equal (log 9). -/
def Obligations.ResetInstanceBehavesAsFresh : Prop :=
  ∀ (i : BitVec 8) (s t u : State) (is : List Instr), s.params = u.params →
    (∀ b, s.bq[i.toNat]? = some b → exec (.bqReset i) s = .next t →
      u.bq[i.toNat]? = some { Biquad.powerOn with coef := b.coef, coefWritten := b.coefWritten } →
      (∀ j ∈ is, target j = .bq i.toNat) → responses is t = responses is u) ∧
    (∀ e, s.ef[i.toNat]? = some e → exec (.envReset i) s = .next t →
      u.ef[i.toNat]? = some { e with env := Follower.powerOn.env } →
      (∀ j ∈ is, target j = .ef i.toNat) → responses is t = responses is u) ∧
    (∀ c, s.comp[i.toNat]? = some c → exec (.compReset i) s = .next t →
      u.comp[i.toNat]? = some ⟨{ c.ef with env := Compressor.powerOn.ef.env }⟩ →
      (∀ j ∈ is, target j = .comp i.toNat) → responses is t = responses is u) ∧
    (∀ d, s.dl[i.toNat]? = some d → exec (.dlReset i) s = .next t →
      u.dl[i.toNat]? = some { DelayLine.powerOn.configure d.len d.rate with choices := d.choices } →
      (∀ j ∈ is, target j = .dl i.toNat) → responses is t = responses is u)

/-! ### The envelope follower and the compressor -/

/-- Rules R201 and R221: `ENV_SETTIMES` and `COMP_SETTIMES`. -/
def Obligations.SettimesComputesBothCoefficients : Prop :=
  ∀ (i : BitVec 8) (am rm sr a3 a4 : F32) (s : State),
    let coeff := fun ms : F32 => Config.num.fexp (fneg (fdiv litOne (fmul (fmul ms lit0p001) sr)))
    decode ⟨commandWord 0x20 i 0, am, rm, sr, a3, a4⟩ = .ok (.envSettimes i am rm sr) ∧
    decode ⟨commandWord 0x30 i 0, am, rm, sr, a3, a4⟩ = .ok (.compSettimes i am rm sr) ∧
    (∀ e, s.ef[i.toNat]? = some e →
      exec (.envSettimes i am rm sr) s =
        .next { s with
          ef := s.ef.set i.toNat { e with attackCoeff := coeff am, releaseCoeff := coeff rm, timesWritten := true }
          response := some .empty }) ∧
    (∀ c, s.comp[i.toNat]? = some c →
      exec (.compSettimes i am rm sr) s =
        .next { s with
          comp := s.comp.set i.toNat ⟨{ c.ef with attackCoeff := coeff am, releaseCoeff := coeff rm, timesWritten := true }⟩
          response := some .empty })

/-- Rule R202: `ENV_PROCESS` and its refusal. -/
def Obligations.EnvProcessSmoothsTheRectifiedInput : Prop :=
  ∀ (i : BitVec 8) (input a1 a2 a3 a4 : F32) (s : State),
    decode ⟨commandWord 0x21 i 0, input, a1, a2, a3, a4⟩ = .ok (.envProcess i input) ∧
    ∀ e, s.ef[i.toNat]? = some e →
      (e.timesWritten = false → exec (.envProcess i input) s = .refused .unwrittenCoefficients) ∧
      (e.timesWritten = true →
        let a := fabs input
        let c := if fgt a e.env then e.attackCoeff else e.releaseCoeff
        let env := flush (fadd a (fmul c (fsub e.env a))) litEnvFlush
        exec (.envProcess i input) s =
          .next { s with ef := s.ef.set i.toNat { e with env := env }, response := some (.value env) })

/-- Rule R222, with rules R112, R113 and R202 written out: `COMP_PROCESS` and its refusal. -/
def Obligations.CompProcessAnswersTheGain : Prop :=
  ∀ (i : BitVec 8) (left right thr ratio knee : F32) (s : State),
    decode ⟨commandWord 0x31 i 0, left, right, thr, ratio, knee⟩ = .ok (.compProcess i left right thr ratio knee) ∧
    ∀ c, s.comp[i.toNat]? = some c →
      (c.ef.timesWritten = false → exec (.compProcess i left right thr ratio knee) s = .refused .unwrittenCoefficients) ∧
      (c.ef.timesWritten = true →
        let a := fabs (fmax (fabs left) (fabs right))
        let k := if fgt a c.ef.env then c.ef.attackCoeff else c.ef.releaseCoeff
        let env := flush (fadd a (fmul k (fsub c.ef.env a))) litEnvFlush
        let inDb := if fgt env litDbTest then fmul lit20 (Config.num.flog10 env) else litDbFloor
        let red := gainReduction inDb thr ratio knee
        exec (.compProcess i left right thr ratio knee) s =
          .next { s with
            comp := s.comp.set i.toNat ⟨{ c.ef with env := env }⟩
            response := some (.value (Config.num.fpow10 (fdiv red lit20))) })

/-- Rule R223: the gain computer, and its five worked examples. -/
def Obligations.GainComputerBranches : Prop :=
  (∀ inDb thr ratio knee : F32,
    let half := fdiv knee litTwo
    gainReduction inDb thr ratio knee =
      if fgt knee litZero && flt (fsub thr half) inDb && flt inDb (fadd thr half) then
        let x := fadd (fsub inDb thr) half
        fdiv (fmul (fsub (fdiv litOne ratio) litOne) (fmul x x)) (fmul litTwo knee)
      else if fge inDb (fadd thr half) then fsub (fdiv (fsub inDb thr) ratio) (fsub inDb thr)
      else litZero) ∧
  gainReduction 0xC1200000 0xC1A00000 0x40800000 0x00000000 = 0xC0F00000 ∧
  gainReduction 0xC1A00000 0xC1A00000 0x40800000 0x40C00000 = 0xBF100000 ∧
  gainReduction 0xC1880000 0xC1A00000 0x40800000 0x40C00000 = 0xC0100000 ∧
  gainReduction 0xC1B80000 0xC1A00000 0x40800000 0x40C00000 = 0x00000000 ∧
  gainReduction 0xC1F00000 0xC1A00000 0x40800000 0x00000000 = 0x00000000

/-- Corner cases of rules R223 and R225: a knee of zero (of either sign) makes a hard-knee compressor with reduction from
`inDb ≥ thr`; a NaN level, threshold or knee gives no reduction. -/
def Obligations.HardKneeAndNaNOperands : Prop :=
  ∀ inDb thr ratio knee : F32,
    (isZero knee = true → gainReduction inDb thr ratio knee =
      if fge inDb thr then fsub (fdiv (fsub inDb thr) ratio) (fsub inDb thr) else litZero) ∧
    (isNaN inDb = true ∨ isNaN thr = true ∨ isNaN knee = true → gainReduction inDb thr ratio knee = litZero)

/-- Corner case of rule R225: swapping the channels (not both NaN) or changing a sign changes nothing. -/
def Obligations.CompressorIsStereoLinked : Prop :=
  ∀ (i : BitVec 8) (l r thr ratio knee : F32) (s : State),
    (¬(isNaN l = true ∧ isNaN r = true) →
      exec (.compProcess i l r thr ratio knee) s = exec (.compProcess i r l thr ratio knee) s) ∧
    exec (.compProcess i l r thr ratio knee) s = exec (.compProcess i (fneg l) r thr ratio knee) s ∧
    exec (.compProcess i l r thr ratio knee) s = exec (.compProcess i l (fneg r) thr ratio knee) s

/-! ### The delay line -/

/-- Rule R242: `DL_CONSTRUCT`, on an unconfigured and on a configured line, and its refusal. -/
def Obligations.DlConstructZeroesTheLine : Prop :=
  ∀ (i : BitVec 8) (maxMs sr a2 a3 a4 : F32) (s : State),
    let n := f2n (fceil (fdiv (fmul maxMs sr) lit1000)) + 1
    decode ⟨commandWord 0x40 i 0, maxMs, sr, a2, a3, a4⟩ = .ok (.dlConstruct i maxMs sr) ∧
    ∀ d, s.dl[i.toNat]? = some d →
      (s.params.dlMaxLen < n → exec (.dlConstruct i maxMs sr) s = .refused .overCapacity) ∧
      (n ≤ s.params.dlMaxLen →
        ∃ buf, (∀ j, memRead buf j = litZero) ∧
          exec (.dlConstruct i maxMs sr) s =
            .next { s with
              dl := s.dl.set i.toNat { d with configured := true, len := n, rate := sr, buf := buf, wpos := 0 }
              response := some .empty })

/-- Rules R245 and R246: `DL_SETRATE` and its refusals. The length and the rate become the new ones; the buffer and the cursor
are zeroed, or, only where neither the rate's bits nor the length changed, they may stay as they are. -/
def Obligations.DlSetrateReinitialisesOnChange : Prop :=
  ∀ (i : BitVec 8) (rate maxMs a2 a3 a4 : F32) (s : State),
    let n := f2n (fceil (fdiv (fmul maxMs rate) lit1000)) + 1
    decode ⟨commandWord 0x41 i 0, rate, maxMs, a2, a3, a4⟩ = .ok (.dlSetrate i rate maxMs) ∧
    ∀ d, s.dl[i.toNat]? = some d →
      (d.configured = false → exec (.dlSetrate i rate maxMs) s = .refused .unconfigured) ∧
      (d.configured = true → s.params.dlMaxLen < n → exec (.dlSetrate i rate maxMs) s = .refused .overCapacity) ∧
      (d.configured = true → n ≤ s.params.dlMaxLen →
        ∃ d', exec (.dlSetrate i rate maxMs) s = .next { s with dl := s.dl.set i.toNat d', response := some .empty } ∧
          d'.configured = true ∧ d'.len = n ∧ d'.rate = rate ∧
          ((∀ j, memRead d'.buf j = litZero) ∧ d'.wpos = 0 ∨
            rate = d.rate ∧ n = d.len ∧ d'.buf = d.buf ∧ d'.wpos = d.wpos))

/-- Rule R247, with rules R248 and R249 written out: `DL_PROCESS` on a configured line (rule R35 holding) and its refusal. -/
def Obligations.DlProcessReadsThenWrites : Prop :=
  ∀ (i : BitVec 8) (input delayMs feedback a3 a4 : F32) (s : State),
    decode ⟨commandWord 0x42 i 0, input, delayMs, feedback, a3, a4⟩ = .ok (.dlProcess i input delayMs feedback) ∧
    ∀ d, s.dl[i.toNat]? = some d →
      (d.configured = false → exec (.dlProcess i input delayMs feedback) s = .refused .unconfigured) ∧
      (d.configured = true → 1 ≤ d.len → d.wpos < d.len →
        let n := min (f2n (ffloor (fdiv (fmul delayMs d.rate) lit1000))) (d.len - 1)
        let out := memRead d.buf ((d.wpos + d.len - n) % d.len)
        exec (.dlProcess i input delayMs feedback) s =
          .next { s with
            dl := s.dl.set i.toNat
              { d with buf := memWrite d.buf d.wpos (fadd input (fmul out feedback)), wpos := (d.wpos + 1) % d.len }
            response := some (.value out) })

/-- The memory frame of `DL_PROCESS` (rules R51, R54, R55): the cell at the write cursor receives input + out·feedback, out
being the value returned, every other cell of that memory and every other line reads as before, and the memory keeps its
canonical form (log 12). -/
def Obligations.DlProcessWritesOneCell : Prop :=
  ∀ (i : BitVec 8) (input delayMs feedback : F32) (s t : State) (d : DelayLine),
    s.dl[i.toNat]? = some d → memWf d.len d.buf = true → exec (.dlProcess i input delayMs feedback) s = .next t →
    ∃ out d', t.response = some (.value out) ∧ t.dl[i.toNat]? = some d' ∧ memWf d'.len d'.buf = true ∧
      memRead d'.buf d.wpos = fadd input (fmul out feedback) ∧
      (∀ n, n ≠ d.wpos → memRead d'.buf n = memRead d.buf n) ∧
      (∀ n, n ≠ i.toNat → t.dl[n]? = s.dl[n]?)

/-- Rule R250: `DL_RESET`, its refusal, and that two are as one. -/
def Obligations.DlResetZeroesBufferAndCursor : Prop :=
  ∀ (i : BitVec 8) (a0 a1 a2 a3 a4 : F32) (s : State),
    decode ⟨commandWord 0x43 i 0, a0, a1, a2, a3, a4⟩ = .ok (.dlReset i) ∧
    ∀ d, s.dl[i.toNat]? = some d →
      (d.configured = false → exec (.dlReset i) s = .refused .unconfigured) ∧
      (d.configured = true →
        ∃ buf t, (∀ j, memRead buf j = litZero) ∧
          t = { s with dl := s.dl.set i.toNat { d with buf := buf, wpos := 0 }, response := some .empty } ∧
          exec (.dlReset i) s = .next t ∧ exec (.dlReset i) t = .next t)

/-- Rules R241 and R248: the length of a line and the delay in samples, their bounds, what a negative or NaN product gives, and
the worked examples. -/
def Obligations.LengthAndDelayInSamples : Prop :=
  (∀ ms sr : F32, dlLength ms sr = f2n (fceil (fdiv (fmul ms sr) lit1000)) + 1 ∧ 1 ≤ dlLength ms sr ∧ dlLength litZero sr = 1) ∧
  (∀ (ms rate : F32) (L : Nat),
    delaySamples ms rate L = min (f2n (ffloor (fdiv (fmul ms rate) lit1000))) (L - 1) ∧
    (1 ≤ L → delaySamples ms rate L ≤ L - 1) ∧
    (isNaN (fmul ms rate) = true ∨ fsign (fmul ms rate) = true → delaySamples ms rate L = 0) ∧
    delaySamples 0x3F800000 0x472C4400 L = min 44 (L - 1) ∧ delaySamples 0x40533333 0x447A0000 L = min 3 (L - 1) ∧
    delaySamples 0x3F7FBE77 0x447A0000 L = 0) ∧
  (dlLength 0x41200000 0x447A0000 = 11 ∧ dlLength 0x41200000 0x472C4400 = 442 ∧ dlLength 0x3FC00000 0x472C4400 = 68 ∧
    dlLength 0x447A0000 0x473B8000 = 48001 ∧ dlLength 0x3DCCCCCD 0x473B8000 = 6) ∧
  (delaySamples 0x41200000 0x447A0000 11 = 10 ∧ delaySamples 0x41200000 0x473B8000 481 = 480 ∧
    delaySamples 0x42C60000 0x447A0000 4 = 3)

/-- Rules R111 and R249: the read position and the next cursor. -/
def Obligations.ReadPositionAndCursor : Prop :=
  ∀ w L d : Nat, w < L → d ≤ L - 1 →
    readPos w L d = (w + L - d) % L ∧ readPos w L d = (if d ≤ w then w - d else w + L - d) ∧ readPos w L d < L ∧
    (readPos w L d = w ↔ d = 0) ∧
    nextPos w L = (w + 1) % L ∧ nextPos w L = (if w = L - 1 then 0 else w + 1) ∧ nextPos w L < L

/-- The law the spec infers in rule R251: on a line just initialised or reset, any sequence of `DL_PROCESS` commands returns what was written
d commands ago (L commands ago for d = 0), or +0.0 where there is nothing. -/
def Obligations.DelayLineReturnsWhatWasWritten : Prop :=
  ∀ (i : BitVec 8) (s : State) (d : DelayLine) (xs : List DelayInput),
    s.dl[i.toNat]? = some d → d.configured = true → 1 ≤ d.len → d.wpos = 0 → d.buf = memZeroed →
    delayRun i xs s = some (delayLaw d.rate d.len [] xs)

/-! ### Numerics -/

/-- The special values of rule R101: NaN operands, `Inf − Inf`, `0 · Inf`, `Inf / Inf`, `0 / 0`, `x / 0`. -/
def Obligations.SpecialValues : Prop :=
  ∀ a b : F32,
    (isNaN a = true ∨ isNaN b = true →
      isNaN (fadd a b) = true ∧ isNaN (fsub a b) = true ∧ isNaN (fmul a b) = true ∧ isNaN (fdiv a b) = true) ∧
    (isInf a = true → isInf b = true →
      (isNaN (fadd a b) = true ↔ fsign a ≠ fsign b) ∧ (isNaN (fsub a b) = true ↔ fsign a = fsign b) ∧
        isNaN (fdiv a b) = true) ∧
    (isZero a = true → isInf b = true → isNaN (fmul a b) = true ∧ isNaN (fmul b a) = true) ∧
    (isZero a = true → isZero b = true → isNaN (fdiv a b) = true) ∧
    (isFinite a = true → isZero a = false → isZero b = true → fdiv a b = finf (fsign a != fsign b))

/-- Rule R101 for `+` and `−` on finite values; an exact zero has the sign IEEE 754 gives it. -/
def Obligations.SumsAreCorrectlyRounded : Prop :=
  ∀ a b : F32, isFinite a = true → isFinite b = true →
    Rounded (units a + units b) 1 (fadd a b) ∧ Rounded (units a - units b) 1 (fsub a b) ∧
    (units a + units b = 0 → fadd a b = fzero (fsign a && fsign b)) ∧
    (units a = units b → fsub a b = fzero (fsign a && !fsign b))

/-- Rule R101 for `·` on finite values: the product in units of 2^-149 is `units a · units b / 2^149`. -/
def Obligations.ProductsAreCorrectlyRounded : Prop :=
  ∀ a b : F32, isFinite a = true → isFinite b = true →
    Rounded (units a * units b) (2 ^ 149) (fmul a b) ∧ fsign (fmul a b) = (fsign a != fsign b)

/-- Rule R101 for `/` on finite values, the divisor not zero: the quotient in units of 2^-149 is `units a · 2^149 / units b`. -/
def Obligations.QuotientsAreCorrectlyRounded : Prop :=
  ∀ a b : F32, isFinite a = true → isFinite b = true → isZero b = false →
    Rounded ((if fsign b then -1 else 1) * units a * 2 ^ 149) (magUnits b) (fdiv a b) ∧
    fsign (fdiv a b) = (fsign a != fsign b)

/-- Rule R114: `fsqrt`. A NaN and a negative value give a NaN, a zero and +Inf give themselves. The root of a positive finite
value is finite and positive, and no other value is closer to the exact root, whose square is `units a · 2^149`: the square of the midpoint towards any smaller value is not above it,
and that towards any larger one not below it. -/
def Obligations.RootsAreCorrectlyRounded : Prop :=
  ∀ a : F32,
    (isNaN a = true → isNaN (fsqrt a) = true) ∧
    (isNaN a = false → fsign a = true → isZero a = false → isNaN (fsqrt a) = true) ∧
    (isZero a = true → fsqrt a = a) ∧ (isInf a = true → fsign a = false → fsqrt a = a) ∧
    (isFinite a = true → isZero a = false → fsign a = false →
      isFinite (fsqrt a) = true ∧ fsign (fsqrt a) = false ∧
      ∀ z : F32, isFinite z = true →
        (0 ≤ units z → units z < units (fsqrt a) →
          (units z + units (fsqrt a)) * (units z + units (fsqrt a)) ≤ 4 * (units a * 2 ^ 149)) ∧
        (units (fsqrt a) < units z →
          4 * (units a * 2 ^ 149) ≤ (units z + units (fsqrt a)) * (units z + units (fsqrt a))))

/-- Rule R106: `fabs` and the ordered comparisons. The value of an infinity counts as 2^128. -/
def Obligations.AbsoluteValueAndComparisons : Prop :=
  ∀ a b : F32,
    fmag (fabs a) = fmag a ∧ fsign (fabs a) = false ∧ isNaN (fabs a) = isNaN a ∧
    (flt a b = true ↔ isNaN a = false ∧ isNaN b = false ∧ units a < units b) ∧
    (fgt a b = true ↔ isNaN a = false ∧ isNaN b = false ∧ units b < units a) ∧
    (fle a b = true ↔ isNaN a = false ∧ isNaN b = false ∧ units a ≤ units b) ∧
    (fge a b = true ↔ isNaN a = false ∧ isNaN b = false ∧ units b ≤ units a) ∧
    (isZero a = true → isZero b = true → flt a b = false ∧ fle a b = true)

/-- Rule R107: `fmax` and `fmin`; of two zeros either may be returned (log 8). -/
def Obligations.MaximumAndMinimum : Prop :=
  ∀ a b : F32,
    (isNaN a = false → isNaN b = false →
      (fmax a b = a ∨ fmax a b = b) ∧ units a ≤ units (fmax a b) ∧ units b ≤ units (fmax a b) ∧
      (fmin a b = a ∨ fmin a b = b) ∧ units (fmin a b) ≤ units a ∧ units (fmin a b) ≤ units b) ∧
    (isNaN a = true → isNaN b = false → fmax a b = b ∧ fmin a b = b) ∧
    (isNaN a = false → isNaN b = true → fmax a b = a ∧ fmin a b = a) ∧
    (isNaN a = true → isNaN b = true → isNaN (fmax a b) = true ∧ isNaN (fmin a b) = true)

/-- Rules R108, R112 and R113: the denormal guard with its two thresholds, the dB helpers, the shelf gain's other divisor. -/
def Obligations.GuardAndDecibelHelpers : Prop :=
  ∀ (N : Numerics) (v t : F32),
    flush v t = (if flt (fabs v) t then litZero else v) ∧ (isNaN v = true → flush v t = v) ∧
    (isInf v = true → flush v litBiquadFlush = v ∧ flush v litEnvFlush = v) ∧
    (isZero v = true → flush v litBiquadFlush = litZero ∧ flush v litEnvFlush = litZero) ∧
    litBiquadFlush = 0x2D2FEBFF ∧ litEnvFlush = 0x26901D7D ∧
    dbToLin N v = N.fpow10 (fdiv v lit20) ∧ gainA N v = N.fpow10 (fdiv v lit40) ∧
    linToDb N v = (if fgt v litDbTest then fmul lit20 (N.flog10 v) else litDbFloor)

/-- Rule R109: `ffloor` and `fceil` give the largest integral value not above and the smallest not below, exactly, and return a
zero, an infinity and a NaN as they are. -/
def Obligations.FloorAndCeiling : Prop :=
  ∀ x : F32,
    (isNaN x = true ∨ isInf x = true ∨ isZero x = true → ffloor x = x ∧ fceil x = x) ∧
    (isFinite x = true →
      isFinite (ffloor x) = true ∧ (2 ^ 149 : Int) ∣ units (ffloor x) ∧ units (ffloor x) ≤ units x ∧
      isFinite (fceil x) = true ∧ (2 ^ 149 : Int) ∣ units (fceil x) ∧ units x ≤ units (fceil x) ∧
      ∀ n : Int, (n * 2 ^ 149 ≤ units x → n * 2 ^ 149 ≤ units (ffloor x)) ∧
        (units x ≤ n * 2 ^ 149 → units (fceil x) ≤ n * 2 ^ 149))

/-- Rule R110: `f2n`, saturating; it equals its operand when that comes from `ffloor` or `fceil` and is in range. -/
def Obligations.SaturatingConversion : Prop :=
  ∀ v : F32,
    (isNaN v = true → f2n v = 0) ∧ (fle v litZero = true → f2n v = 0) ∧
    (fge v 0x4F800000 = true → f2n v = 4294967295) ∧
    (fgt v litZero = true → flt v 0x4F800000 = true →
      (f2n v : Int) * 2 ^ 149 ≤ units v ∧ units v < ((f2n v : Int) + 1) * 2 ^ 149 ∧
      ((2 ^ 149 : Int) ∣ units v → (f2n v : Int) * 2 ^ 149 = units v))

/-! ### The model's choice of one machine -/

/-- The model's choice (log 4): State.reset is the machine with the counts and parameters that rule R6 suggests and does not
fix. -/
def Obligations.ResetHasTheSuggestedParameters : Prop :=
  State.reset.counts = ⟨2, 1, 1, 2⟩ ∧ State.reset.params.dlMaxLen = 262144 ∧
  State.reset.params.charShelfSide = ⟨.low, .high, .high, .low⟩ ∧
  State.reset.params.dcblockFreqHz = 0x41A00000 ∧ State.reset.params.dcblockQ = 0x3F34FDF4 ∧
  State.reset.params.bpfGainAssignment = .asWritten ∧ State.reset.params.onepoleKReading = .asWritten
end

