-- ==== Sys2Proof/Laws/Numerics.lean ====
section
/-! SUPPORT. The laws of the binary32 patterns and of rounding: the fields of a pattern, the order of magnitudes, and that
`roundMag` gives a nearest value, ties to even. -/

namespace Sys2Proof.Machine

/-! ### Fields -/

/-- The value in units of the magnitude bits `m` (bits 30:0), as a function of those bits alone. -/
def unitsOfMag (m : Nat) : Nat := if m / 2 ^ 23 = 0 then m % 2 ^ 23 else (2 ^ 23 + m % 2 ^ 23) * 2 ^ (m / 2 ^ 23 - 1)

theorem fmag_lt (x : F32) : fmag x < 2 ^ 31 := Nat.mod_lt _ (by decide)

theorem fsign_eq (x : F32) : fsign x = decide (2 ^ 31 ≤ x.toNat) := by
  simp [fsign, BitVec.msb_eq_decide]

theorem toNat_eq (x : F32) : x.toNat = (if fsign x then 2 ^ 31 else 0) + fmag x := by
  have h := x.isLt
  rw [fsign_eq, fmag]
  by_cases hs : 2 ^ 31 ≤ x.toNat
  · rw [decide_eq_true hs, if_pos rfl]; omega
  · rw [decide_eq_false hs, if_neg Bool.false_ne_true]; omega

theorem fexpo_eq (x : F32) : fexpo x = fmag x / 2 ^ 23 := by
  have h := x.isLt
  simp only [fexpo, fmag]; omega

theorem ffrac_eq (x : F32) : ffrac x = fmag x % 2 ^ 23 := by
  simp only [ffrac, fmag]; omega

theorem magUnits_eq (x : F32) : magUnits x = unitsOfMag (fmag x) := by
  simp only [magUnits, unitsOfMag, fexpo_eq, ffrac_eq]

theorem pack_toNat (s : Bool) {m : Nat} (h : m < 2 ^ 31) : (pack s m).toNat = (if s then 2 ^ 31 else 0) + m := by
  rw [pack, BitVec.toNat_ofNat]
  cases s
  · rw [if_neg Bool.false_ne_true]; omega
  · rw [if_pos rfl]; omega

theorem fmag_pack (s : Bool) {m : Nat} (h : m < 2 ^ 31) : fmag (pack s m) = m := by
  rw [fmag, pack_toNat s h]
  cases s
  · rw [if_neg Bool.false_ne_true]; omega
  · rw [if_pos rfl]; omega

theorem fsign_pack (s : Bool) {m : Nat} (h : m < 2 ^ 31) : fsign (pack s m) = s := by
  rw [fsign_eq, pack_toNat s h]
  cases s
  · rw [if_neg Bool.false_ne_true, decide_eq_false]; omega
  · rw [if_pos rfl, decide_eq_true]; omega

/-- A pattern is its sign and its magnitude. -/
theorem pack_fields (x : F32) : pack (fsign x) (fmag x) = x := by
  apply BitVec.eq_of_toNat_eq
  rw [pack_toNat _ (fmag_lt x), ← toNat_eq]

theorem eq_of_fields {x y : F32} (hs : fsign x = fsign y) (hm : fmag x = fmag y) : x = y := by
  rw [← pack_fields x, ← pack_fields y, hs, hm]

@[simp] theorem fmag_fabs (x : F32) : fmag (fabs x) = fmag x := fmag_pack _ (fmag_lt x)
@[simp] theorem fsign_fabs (x : F32) : fsign (fabs x) = false := fsign_pack _ (fmag_lt x)
@[simp] theorem fmag_fneg (x : F32) : fmag (fneg x) = fmag x := fmag_pack _ (fmag_lt x)
@[simp] theorem fsign_fneg (x : F32) : fsign (fneg x) = !fsign x := fsign_pack _ (fmag_lt x)
@[simp] theorem magUnits_fneg (x : F32) : magUnits (fneg x) = magUnits x := by simp [magUnits_eq]
@[simp] theorem isNaN_fabs (x : F32) : isNaN (fabs x) = isNaN x := by simp [isNaN]
@[simp] theorem isNaN_fneg (x : F32) : isNaN (fneg x) = isNaN x := by simp [isNaN]
@[simp] theorem fmag_fzero (s : Bool) : fmag (fzero s) = 0 := fmag_pack s (by decide)
@[simp] theorem fsign_fzero (s : Bool) : fsign (fzero s) = s := fsign_pack s (by decide)

/-! ### NaN -/

/-- Whatever the free value, the NaN an operation gives is a NaN. -/
@[simp] theorem isNaN_nanOf (op : FOp) (a b : F32) : isNaN (nanOf op a b) = true := by
  unfold nanOf; split
  · assumption
  · decide

theorem isNaN_fadd {a b : F32} (h : isNaN a = true ∨ isNaN b = true) : isNaN (fadd a b) = true := by
  unfold fadd; rw [if_pos (by simpa using h)]; simp
theorem isNaN_fsub {a b : F32} (h : isNaN a = true ∨ isNaN b = true) : isNaN (fsub a b) = true := by
  unfold fsub; rw [if_pos (by simpa using h)]; simp
theorem isNaN_fmul {a b : F32} (h : isNaN a = true ∨ isNaN b = true) : isNaN (fmul a b) = true := by
  unfold fmul; rw [if_pos (by simpa using h)]; simp
theorem isNaN_fdiv {a b : F32} (h : isNaN a = true ∨ isNaN b = true) : isNaN (fdiv a b) = true := by
  unfold fdiv; rw [if_pos (by simpa using h)]; simp

/-- A finite value is neither a NaN nor an infinity. -/
theorem isFinite_iff {x : F32} : isFinite x = true ↔ isNaN x = false ∧ isInf x = false := by
  simp only [isFinite, isNaN, isInf, decide_eq_true_eq, decide_eq_false_iff_not]; omega

/-! ### Comparisons and the guard -/

theorem flt_of_isNaN {a b : F32} (h : isNaN a = true ∨ isNaN b = true) : flt a b = false := by
  rcases h with h | h <;> simp [flt, h]

theorem fle_of_isNaN {a b : F32} (h : isNaN a = true ∨ isNaN b = true) : fle a b = false := by
  rcases h with h | h <;> simp [fle, h]

theorem flt_irrefl (a : F32) : flt a a = false := by simp [flt]

/-- What the guard can give: +0.0 below the threshold, otherwise the value itself. -/
theorem flush_cases (v t : F32) :
    (flt (fabs v) t = true ∧ flush v t = litZero) ∨ (flt (fabs v) t = false ∧ flush v t = v) := by
  unfold flush; split
  · left; exact ⟨‹_›, rfl⟩
  · right; exact ⟨Bool.eq_false_of_not_eq_true ‹_›, rfl⟩

theorem flush_of_isNaN {v : F32} (h : isNaN v = true) (t : F32) : flush v t = v := by
  unfold flush; rw [flt_of_isNaN (.inl (by simpa using h))]; simp

@[simp] theorem flush_zero (t : F32) : flush litZero t = litZero := by
  unfold flush; split <;> rfl

/-- The same for +0.0 written as the literal 0, as the values at power-on are. -/
@[simp] theorem flush_zero_lit (t : F32) : flush 0#32 t = 0#32 := flush_zero t

/-- A flushed value is not changed by the guard again. -/
@[simp] theorem flush_flush (v t : F32) : flush (flush v t) t = flush v t := by
  rcases flush_cases v t with ⟨_, h⟩ | ⟨_, h⟩
  · rw [h, flush_zero]
  · rw [h, h]

/-! ### The order of magnitudes -/

/-- Magnitude bits with `k` in the exponent position: a significand `t` (below 2^24, and at least 2^23 unless `k` is 0; or
2^24 itself, the carry) is worth `t · 2^k` units. -/
theorem unitsOfMag_parts {k t : Nat} (hk : k = 0 ∨ 2 ^ 23 ≤ t) (ht : t ≤ 2 ^ 24) :
    unitsOfMag (k * 2 ^ 23 + t) = t * 2 ^ k := by
  unfold unitsOfMag
  rcases Nat.lt_or_ge t (2 ^ 23) with h | h
  · have hk0 : k = 0 := by rcases hk with hk | hk <;> omega
    subst hk0
    rw [if_pos (by omega)]
    have : (0 * 2 ^ 23 + t) % 2 ^ 23 = t := by omega
    rw [this]; simp
  · rcases Nat.lt_or_ge t (2 ^ 24) with h' | h'
    · have h1 : (k * 2 ^ 23 + t) / 2 ^ 23 = k + 1 := by omega
      have h2 : (k * 2 ^ 23 + t) % 2 ^ 23 = t - 2 ^ 23 := by omega
      rw [h1, h2, if_neg (by omega)]
      have h3 : 2 ^ 23 + (t - 2 ^ 23) = t := by omega
      rw [h3, Nat.add_sub_cancel]
    · have ht' : t = 2 ^ 24 := by omega
      subst ht'
      have h1 : (k * 2 ^ 23 + 2 ^ 24) / 2 ^ 23 = k + 2 := by omega
      have h2 : (k * 2 ^ 23 + 2 ^ 24) % 2 ^ 23 = 0 := by omega
      rw [h1, h2, if_neg (by omega)]
      have h3 : k + 2 - 1 = k + 1 := by omega
      rw [h3, Nat.pow_succ]; omega

/-- Every magnitude splits so. -/
theorem mag_split (m : Nat) : ∃ k t, m = k * 2 ^ 23 + t ∧ (k = 0 ∨ 2 ^ 23 ≤ t) ∧ t < 2 ^ 24 := by
  rcases Nat.lt_or_ge m (2 ^ 23) with h | h
  · exact ⟨0, m, by omega, .inl rfl, by omega⟩
  · refine ⟨m / 2 ^ 23 - 1, m % 2 ^ 23 + 2 ^ 23, ?_, .inr (by omega), by omega⟩
    have : 1 ≤ m / 2 ^ 23 := by omega
    omega

theorem unitsOfMag_lt_succ (m : Nat) : unitsOfMag m < unitsOfMag (m + 1) := by
  obtain ⟨k, t, rfl, hk, ht⟩ := mag_split m
  rw [unitsOfMag_parts hk (by omega), Nat.add_assoc,
    unitsOfMag_parts (k := k) (t := t + 1) (by rcases hk with h | h <;> [exact .inl h; exact .inr (by omega)]) (by omega)]
  exact Nat.mul_lt_mul_of_pos_right (Nat.lt_succ_self t) (Nat.two_pow_pos k)

/-- The value grows with the magnitude bits. -/
theorem unitsOfMag_strictMono : StrictMono unitsOfMag := strictMono_nat_of_lt_succ unitsOfMag_lt_succ

theorem unitsOfMag_zero : unitsOfMag 0 = 0 := by decide

theorem magUnits_eq_zero {x : F32} : magUnits x = 0 ↔ fmag x = 0 := by
  rw [magUnits_eq]
  constructor
  · intro h
    by_contra h0
    have := unitsOfMag_strictMono (Nat.pos_of_ne_zero h0)
    rw [unitsOfMag_zero] at this; omega
  · rintro h; rw [h, unitsOfMag_zero]

end Sys2Proof.Machine
end

