-- ==== Sys2Proof/Laws/Rounding.lean ====
section
/-! SUPPORT. Rounding: `roundMag` gives the nearest magnitude, ties to even, exact values unchanged (rule R101). -/

namespace Sys2Proof.Machine

/-- `roundMag` before its bound: the parts it computes. For `num / den` there are a place `2^k`, a whole quotient `t` and a
rest `r` such that the result is `k · 2^23 + t`, raised by one when the rest is above half, or half and the quotient odd. -/
theorem roundMag_parts (num : Nat) {den : Nat} (hd : 0 < den) :
    ∃ k t r, num = t * (den * 2 ^ k) + r ∧ r < den * 2 ^ k ∧ t < 2 ^ 24 ∧ (k = 0 ∨ 2 ^ 23 ≤ t) ∧
      ((den * 2 ^ k < 2 * r ∨ (2 * r = den * 2 ^ k ∧ t % 2 = 1)) ∧ roundMag num den = min (k * 2 ^ 23 + (t + 1)) infMag ∨
        (2 * r < den * 2 ^ k ∨ (2 * r = den * 2 ^ k ∧ t % 2 = 0)) ∧ roundMag num den = min (k * 2 ^ 23 + t) infMag) := by
  have hpos : ∀ k, 0 < den * 2 ^ k := fun k => Nat.mul_pos hd (Nat.two_pow_pos k)
  refine ⟨Nat.log2 (num / den) - 23, num / (den * 2 ^ (Nat.log2 (num / den) - 23)),
    num % (den * 2 ^ (Nat.log2 (num / den) - 23)), ?_, Nat.mod_lt _ (hpos _), ?_, ?_, ?_⟩
  · rw [Nat.mul_comm]; exact (Nat.div_add_mod _ _).symm
  · rw [← Nat.div_div_eq_div_mul]
    apply Nat.div_lt_of_lt_mul
    have h1 : num / den < 2 ^ (Nat.log2 (num / den) + 1) := Nat.lt_log2_self
    calc num / den < 2 ^ (Nat.log2 (num / den) + 1) := h1
      _ ≤ 2 ^ (Nat.log2 (num / den) - 23 + 24) := Nat.pow_le_pow_right (by decide) (by omega)
      _ = _ := by rw [Nat.pow_add]
  · by_cases h : Nat.log2 (num / den) ≤ 23
    · left; omega
    · right
      rw [← Nat.div_div_eq_div_mul]
      have hne : num / den ≠ 0 := by rintro h0; rw [h0] at h; simp at h
      have h1 : 2 ^ Nat.log2 (num / den) ≤ num / den := Nat.log2_self_le hne
      rw [Nat.le_div_iff_mul_le (Nat.two_pow_pos _)]
      calc 2 ^ 23 * 2 ^ (Nat.log2 (num / den) - 23) = 2 ^ (Nat.log2 (num / den)) := by
            rw [← Nat.pow_add]; congr 1; omega
        _ ≤ _ := h1
  · unfold roundMag
    simp only []
    split
    · left; refine ⟨‹_›, ?_⟩; rw [Nat.add_assoc]
    · rename_i hup
      right; refine ⟨?_, by rw [Nat.add_zero]⟩
      rw [not_or, not_and] at hup
      rcases Nat.lt_trichotomy (2 * (num % (den * 2 ^ (Nat.log2 (num / den) - 23)))) (den * 2 ^ (Nat.log2 (num / den) - 23))
        with h | h | h
      · exact .inl h
      · exact .inr ⟨h, by have := hup.2 h; omega⟩
      · exact absurd h hup.1

theorem roundMag_le (num den : Nat) : roundMag num den ≤ infMag := Nat.min_le_right _ _

theorem roundMag_lt (num den : Nat) : roundMag num den < 2 ^ 31 := Nat.lt_of_le_of_lt (roundMag_le _ _) (by decide)

theorem parity_of_parts (k t : Nat) : (k * 2 ^ 23 + t) % 2 = t % 2 := by omega

theorem eq_of_min_lt {a b : Nat} (h : min a b < b) : min a b = a := by omega

/-- The signed distance of a magnitude from `num / den`, scaled by `den`. -/
def distTo (num den m : Nat) : Int := (unitsOfMag m : Int) * den - num

/-- The distances around `num / den`, when it lies `r` above the place of quotient `t`: a magnitude at or below that place is
at least `r` away, one above it at least the rest of the place away, and one further off is further away by `den` or more. -/
theorem distTo_around {num den k t r : Nat} (hn : num = t * (den * 2 ^ k) + r) (hk : k = 0 ∨ 2 ^ 23 ≤ t) (ht : t < 2 ^ 24)
    (m : Nat) :
    (m = k * 2 ^ 23 + t ∧ distTo num den m = -r) ∨ (m < k * 2 ^ 23 + t ∧ distTo num den m ≤ -r - den) ∨
      (m = k * 2 ^ 23 + (t + 1) ∧ distTo num den m = den * 2 ^ k - r) ∨
      (k * 2 ^ 23 + (t + 1) < m ∧ (den : Int) * 2 ^ k - r + den ≤ distTo num den m) := by
  have hk1 : k = 0 ∨ 2 ^ 23 ≤ t + 1 := hk.imp id fun h => Nat.le_succ_of_le h
  have hU : unitsOfMag (k * 2 ^ 23 + t) = t * 2 ^ k := unitsOfMag_parts hk ht.le
  have hU1 : unitsOfMag (k * 2 ^ 23 + (t + 1)) = (t + 1) * 2 ^ k := unitsOfMag_parts hk1 ht
  have hnI : (num : Int) = t * (den * 2 ^ k) + r := by rw [hn]; push_cast; ring
  have hd0 : (0 : Int) ≤ den := Int.natCast_nonneg den
  have hcmp : m < k * 2 ^ 23 + t ∨ m = k * 2 ^ 23 + t ∨ m = k * 2 ^ 23 + (t + 1) ∨ k * 2 ^ 23 + (t + 1) < m := by
    clear hn hU hU1 hnI hk hk1 ht; omega
  unfold distTo
  rcases hcmp with h | h | h | h
  · refine .inr (.inl ⟨h, ?_⟩)
    have hs := unitsOfMag_strictMono h
    rw [hU] at hs
    have hs' : (unitsOfMag m : Int) + 1 ≤ t * 2 ^ k := by exact_mod_cast hs
    have := mul_le_mul_of_nonneg_right hs' hd0
    rw [hnI]; nlinarith
  · refine .inl ⟨h, ?_⟩
    rw [h, hU, hnI]; push_cast; ring
  · refine .inr (.inr (.inl ⟨h, ?_⟩))
    rw [h, hU1, hnI]; push_cast; ring
  · refine .inr (.inr (.inr ⟨h, ?_⟩))
    have hs := unitsOfMag_strictMono h
    rw [hU1] at hs
    have hs' : (t + 1 : Int) * 2 ^ k + 1 ≤ unitsOfMag m := by exact_mod_cast hs
    have := mul_le_mul_of_nonneg_right hs' hd0
    rw [hnI]; nlinarith

/-- A result below the bound is a NEAREST magnitude to `num / den`: no magnitude is closer, and one equally close but different
means the result is even (round to nearest, ties to even). -/
theorem roundMag_nearest {num den : Nat} (hd : 0 < den) (hfin : roundMag num den < infMag) (m : Nat) :
    |distTo num den (roundMag num den)| ≤ |distTo num den m| ∧
      (|distTo num den (roundMag num den)| = |distTo num den m| → m ≠ roundMag num den → roundMag num den % 2 = 0) := by
  obtain ⟨k, t, r, hn, hr, ht, hk, hcase⟩ := roundMag_parts num hd
  have hrI : (r : Int) < den * 2 ^ k := by exact_mod_cast hr
  have hr0 : (0 : Int) ≤ r := Int.natCast_nonneg r
  have hd0 : (0 : Int) < den := by exact_mod_cast hd
  have hm := distTo_around hn hk ht m
  have hMt := distTo_around hn hk ht (k * 2 ^ 23 + t)
  have hMt1 := distTo_around hn hk ht (k * 2 ^ 23 + (t + 1))
  generalize hD : (den : Int) * 2 ^ k = D at *
  have hvt : distTo num den (k * 2 ^ 23 + t) = -r := by
    rcases hMt with h | h | h | h
    · exact h.2
    · exact absurd h.1 (lt_irrefl _)
    · exact absurd h.1 (by clear hn; omega)
    · exact absurd h.1 (by clear hn; omega)
  have hvt1 : distTo num den (k * 2 ^ 23 + (t + 1)) = D - r := by
    rcases hMt1 with h | h | h | h
    · exact absurd h.1 (by clear hn; omega)
    · exact absurd h.1 (by clear hn; omega)
    · exact h.2
    · exact absurd h.1 (lt_irrefl _)
  rcases hcase with ⟨hup, hR⟩ | ⟨hdn, hR⟩
  · have hR' : roundMag num den = k * 2 ^ 23 + (t + 1) := by rw [hR] at hfin ⊢; exact eq_of_min_lt hfin
    have hupI : D ≤ 2 * r ∧ (D = 2 * r → t % 2 = 1) := by
      rcases hup with h | ⟨h, ho⟩
      · have : D < 2 * r := by rw [← hD]; exact_mod_cast h
        exact ⟨this.le, fun h => absurd h this.ne⟩
      · exact ⟨by rw [← hD]; exact_mod_cast h.symm.le, fun _ => ho⟩
    rw [hR', hvt1, abs_of_nonneg (by linarith), parity_of_parts]
    rcases hm with ⟨h, e⟩ | ⟨h, e⟩ | ⟨h, e⟩ | ⟨h, e⟩
    · rw [e, abs_of_nonpos (by linarith)]
      refine ⟨by linarith [hupI.1], fun he _ => ?_⟩
      rw [Nat.add_mod, hupI.2 (by linarith)]
    · rw [abs_of_nonpos (by linarith)]
      exact ⟨by linarith [hupI.1], fun he _ => absurd he (by linarith [hupI.1])⟩
    · rw [e, abs_of_nonneg (by linarith)]
      exact ⟨le_rfl, fun _ hne => absurd h hne⟩
    · rw [abs_of_nonneg (by linarith)]
      exact ⟨by linarith, fun he _ => absurd he (by linarith)⟩
  · have hR' : roundMag num den = k * 2 ^ 23 + t := by rw [hR] at hfin ⊢; exact eq_of_min_lt hfin
    have hdnI : 2 * r ≤ D ∧ (D = 2 * r → t % 2 = 0) := by
      rcases hdn with h | ⟨h, ho⟩
      · have : 2 * r < D := by rw [← hD]; exact_mod_cast h
        exact ⟨this.le, fun h => absurd h this.ne'⟩
      · exact ⟨by rw [← hD]; exact_mod_cast h.le, fun _ => ho⟩
    rw [hR', hvt, abs_of_nonpos (by linarith), parity_of_parts, neg_neg]
    rcases hm with ⟨h, e⟩ | ⟨h, e⟩ | ⟨h, e⟩ | ⟨h, e⟩
    · rw [e, abs_of_nonpos (by linarith)]
      exact ⟨by linarith, fun _ hne => absurd h hne⟩
    · rw [abs_of_nonpos (by linarith)]
      exact ⟨by linarith, fun he _ => absurd he (by linarith)⟩
    · rw [e, abs_of_nonneg (by linarith)]
      exact ⟨by linarith [hdnI.1], fun he _ => hdnI.2 (by linarith)⟩
    · rw [abs_of_nonneg (by linarith)]
      exact ⟨by linarith [hdnI.1], fun he _ => absurd he (by linarith [hdnI.1])⟩

/-- An exact magnitude is not changed, whatever the scale it is given in. -/
theorem roundMag_exact {m : Nat} (hm : m < infMag) {c : Nat} (hc : 0 < c) : roundMag (unitsOfMag m * c) c = m := by
  have h0 : distTo (unitsOfMag m * c) c m = 0 := by unfold distTo; push_cast; ring
  obtain ⟨k, t, r, hn, hr, ht, hk, hcase⟩ := roundMag_parts (unitsOfMag m * c) hc
  have hrI : (r : Int) < c * 2 ^ k := by exact_mod_cast hr
  have hc0 : (0 : Int) < c := by exact_mod_cast hc
  have hm' : m = k * 2 ^ 23 + t ∧ r = 0 := by
    rcases distTo_around hn hk ht m with ⟨h, e⟩ | ⟨h, e⟩ | ⟨h, e⟩ | ⟨h, e⟩
    · exact ⟨h, by rw [h0] at e; exact_mod_cast (show (r : Int) = 0 by linarith)⟩
    · rw [h0] at e; exact absurd e (by have := Int.natCast_nonneg r; linarith)
    · rw [h0] at e; exact absurd e (by linarith)
    · rw [h0] at e; exact absurd e (by linarith)
  rcases hcase with ⟨h, _⟩ | ⟨_, h⟩
  · rw [hm'.2] at h
    have : 0 < c * 2 ^ k := Nat.mul_pos hc (Nat.two_pow_pos k)
    rcases h with h | ⟨h, _⟩
    · exact absurd h (Nat.not_lt_zero _)
    · exact absurd h.symm this.ne'
  · rw [h, ← hm'.1]; exact Nat.min_eq_left hm.le

/-- Bits 30:0 of the largest finite value. -/
def maxFiniteMag : Nat := 0x7F7FFFFF

theorem infMag_eq : infMag = maxFiniteMag + 1 := rfl

theorem unitsOfMag_maxFinite : unitsOfMag maxFiniteMag = (2 ^ 24 - 1) * 2 ^ 253 := by decide +kernel
theorem unitsOfMag_inf : unitsOfMag (maxFiniteMag + 1) = 2 ^ 24 * 2 ^ 253 := by decide +kernel

/-- The result is an infinity exactly when `num / den` is at least half a place above the largest finite value. -/
theorem roundMag_eq_inf {num den : Nat} (hd : 0 < den) :
    roundMag num den = infMag ↔ (2 ^ 25 - 1) * 2 ^ 252 * den ≤ num := by
  obtain ⟨k, t, r, hn, hr, ht, hk, hcase⟩ := roundMag_parts num hd
  have hrI : (r : Int) < den * 2 ^ k := by exact_mod_cast hr
  have hr0 : (0 : Int) ≤ r := Int.natCast_nonneg r
  have hd0 : (0 : Int) < den := by exact_mod_cast hd
  have hq := distTo_around hn hk ht maxFiniteMag
  have hq1 := distTo_around hn hk ht (maxFiniteMag + 1)
  have he : distTo num den (maxFiniteMag + 1) = distTo num den maxFiniteMag + 2 ^ 253 * den := by
    unfold distTo; rw [unitsOfMag_maxFinite, unitsOfMag_inf]; push_cast; ring
  have hT : (2 ^ 25 - 1) * 2 ^ 252 * den ≤ num ↔ 2 * distTo num den maxFiniteMag + 2 ^ 253 * den ≤ 0 := by
    unfold distTo
    rw [unitsOfMag_maxFinite, ← Nat.cast_le (α := Int), Nat.cast_mul]
    have h1 : (((2 ^ 25 - 1) * 2 ^ 252 : Nat) : Int) = (2 ^ 25 - 1) * 2 ^ 252 := by norm_num
    have h2 : (((2 ^ 24 - 1) * 2 ^ 253 : Nat) : Int) = (2 ^ 25 - 2) * 2 ^ 252 := by norm_num
    have h3 : (2 ^ 253 : Int) = 2 * 2 ^ 252 := by norm_num
    rw [h1, h2, h3]
    generalize (2 ^ 252 : Int) = P
    constructor <;> intro h <;> linarith
  have hodd : maxFiniteMag % 2 = 1 := rfl
  rw [hT, infMag_eq] at *
  generalize hD : (den : Int) * 2 ^ k = D at *
  generalize maxFiniteMag = q at *
  obtain ⟨M, hM⟩ : ∃ M, k * 2 ^ 23 + t = M := ⟨_, rfl⟩
  have hM1 : k * 2 ^ 23 + (t + 1) = M + 1 := by rw [← hM, Nat.add_assoc]
  have hpar : M % 2 = t % 2 := by rw [← hM]; exact parity_of_parts k t
  rw [hM, hM1] at hq hq1
  have hup : (roundMag num den = min (M + 1) (q + 1) ∧ D ≤ 2 * r) ∨
      (roundMag num den = min M (q + 1) ∧ (t % 2 = 1 → 2 * r < D)) := by
    rcases hcase with ⟨h, hR⟩ | ⟨h, hR⟩
    · refine .inl ⟨by rw [hR, hM1], ?_⟩
      rcases h with h | ⟨h, _⟩ <;> rw [← hD]
      · exact_mod_cast h.le
      · exact_mod_cast h.symm.le
    · refine .inr ⟨by rw [hR, hM], fun ho => ?_⟩
      rcases h with h | ⟨_, h⟩
      · rw [← hD]; exact_mod_cast h
      · omega
  clear hcase hn hr hM hM1 hk ht hT
  rcases hq with ⟨h, e⟩ | ⟨h, e⟩ | ⟨h, e⟩ | ⟨h, e⟩
  · have e1 : distTo num den (q + 1) = D - r := by
      rcases hq1 with ⟨h1, e1⟩ | ⟨h1, e1⟩ | ⟨h1, e1⟩ | ⟨h1, e1⟩
      · omega
      · omega
      · exact e1
      · omega
    rcases hup with ⟨hR, hu⟩ | ⟨hR, hu⟩
    · exact iff_of_true (by omega) (by linarith)
    · have := hu (by omega)
      exact iff_of_false (by omega) (by linarith)
  · have e1 : distTo num den (q + 1) ≤ -r := by
      rcases hq1 with ⟨h1, e1⟩ | ⟨h1, e1⟩ | ⟨h1, e1⟩ | ⟨h1, e1⟩
      · exact e1.le
      · linarith
      · omega
      · omega
    refine iff_of_true ?_ (by linarith)
    rcases hup with ⟨hR, _⟩ | ⟨hR, _⟩ <;> omega
  · refine iff_of_false ?_ (by linarith)
    rcases hup with ⟨hR, _⟩ | ⟨hR, _⟩ <;> omega
  · refine iff_of_false ?_ (by linarith)
    rcases hup with ⟨hR, _⟩ | ⟨hR, _⟩ <;> omega

end Sys2Proof.Machine
end

