-- ==== Sys2Proof/Laws/Arithmetic.lean ====
section
/-! SUPPORT. The arithmetic of rule R101 on exact cases, and that a packed rounded magnitude is correctly rounded. -/

namespace Sys2Proof.Machine

/-! ### Values and their order -/

theorem units_eq (x : F32) : units x = if fsign x then -(unitsOfMag (fmag x) : Int) else unitsOfMag (fmag x) := by
  unfold units; rw [magUnits_eq]

/-- The comparison key orders patterns as their values do. -/
theorem units_le_iff (a b : F32) : units a ≤ units b ↔ fkey a ≤ fkey b := by
  rw [units_eq, units_eq, fkey, fkey]
  have h := unitsOfMag_strictMono.le_iff_le (a := fmag a) (b := fmag b)
  have h' := unitsOfMag_strictMono.le_iff_le (a := fmag b) (b := fmag a)
  have h0 := unitsOfMag_strictMono.le_iff_le (a := fmag a) (b := 0)
  have h0' := unitsOfMag_strictMono.le_iff_le (a := fmag b) (b := 0)
  rw [unitsOfMag_zero] at h0 h0'
  generalize unitsOfMag (fmag a) = ua at *
  generalize unitsOfMag (fmag b) = ub at *
  split <;> split <;> omega

theorem units_lt_iff (a b : F32) : units a < units b ↔ fkey a < fkey b := by
  rw [← not_le, ← not_le, units_le_iff]

theorem abs_units (x : F32) : |units x| = unitsOfMag (fmag x) := by
  rw [units_eq]; split <;> simp

theorem natAbs_units (x : F32) : (units x).natAbs = magUnits x := by
  rw [magUnits_eq]
  have := abs_units x
  rw [Int.abs_eq_natAbs] at this
  exact_mod_cast this

theorem units_eq_zero {x : F32} : units x = 0 ↔ fmag x = 0 := by
  rw [← Int.natAbs_eq_zero, natAbs_units, magUnits_eq_zero]

theorem fsign_of_units {x : F32} (h : units x ≠ 0) : fsign x = decide (units x < 0) := by
  rw [units_eq] at *
  cases fsign x <;> simp at * ; omega

theorem units_pack (s : Bool) {m : Nat} (h : m < 2 ^ 31) :
    units (pack s m) = if s then -(unitsOfMag m : Int) else unitsOfMag m := by
  rw [units_eq, fmag_pack _ h, fsign_pack _ h]

theorem units_fneg (x : F32) : units (fneg x) = -units x := by
  rw [units_eq, units_eq]; simp; cases fsign x <;> simp

/-! ### Correct rounding -/

/-- The distance of a signed multiple is that of its magnitude, when the sign is the exact value's. -/
theorem abs_signed_sub (num : Int) (den u : Nat) {s : Bool} (hs : num ≠ 0 → s = decide (num < 0)) :
    |(if s then -(u : Int) else u) * den - num| = |(u : Int) * den - num.natAbs| := by
  rcases lt_trichotomy num 0 with hn | hn | hn
  · rw [hs hn.ne, decide_eq_true hn, if_pos rfl, ← abs_neg, show ((num.natAbs : Int)) = -num by omega]; congr 1; ring
  · subst hn; cases s <;> simp
  · rw [hs hn.ne', decide_eq_false (by omega), if_neg (by simp), show ((num.natAbs : Int)) = num by omega]

/-- A rounded magnitude packed with the sign of the exact value is that value correctly rounded. -/
theorem rounded_pack (num : Int) {den : Nat} (hd : 0 < den) (s : Bool) (hs : num ≠ 0 → s = decide (num < 0)) :
    Rounded num den (pack s (roundMag num.natAbs den)) := by
  have hlt := roundMag_lt num.natAbs den
  have habs : |num| = (num.natAbs : Int) := Int.abs_eq_natAbs num
  have hinf := roundMag_eq_inf (num := num.natAbs) hd
  refine ⟨fun h => by rw [fsign_pack _ hlt]; exact hs h, fun h => ?_, fun h => ?_⟩
  · rw [habs] at h
    simp only [isInf, fmag_pack _ hlt, decide_eq_true_eq]
    exact hinf.2 (by exact_mod_cast h)
  rw [habs] at h
  have h' : num.natAbs < overflowUnits * den := by exact_mod_cast h
  have hfin : roundMag num.natAbs den < infMag :=
    lt_of_le_of_ne (roundMag_le _ _) fun h2 => absurd (hinf.1 h2) (not_le.2 h')
  refine ⟨by simp only [isFinite, fmag_pack _ hlt, decide_eq_true_eq]; exact hfin, fun z _ => ?_⟩
  rw [fmag_pack _ hlt, units_pack _ hlt]
  obtain ⟨h1, h2⟩ := roundMag_nearest hd hfin (fmag z)
  unfold distTo at h1 h2
  have hsame := abs_signed_sub num den (roundMag num.natAbs den |> unitsOfMag) hs
  have hge : |(unitsOfMag (fmag z) : Int) * den - num.natAbs| ≤ |units z * den - num| := by
    have : (unitsOfMag (fmag z) : Int) * den = |units z * den| := by rw [abs_mul, abs_units]; simp
    rw [this, ← habs]; exact abs_abs_sub_abs_le _ _
  refine ⟨by rw [hsame]; exact h1.trans hge, fun heq hne => ?_⟩
  by_cases hm : fmag z = roundMag num.natAbs den
  · exfalso
    have hz : units z = -(if s then -(unitsOfMag (roundMag num.natAbs den) : Int)
        else unitsOfMag (roundMag num.natAbs den)) := by
      rw [units_eq, hm] at hne ⊢
      cases hsz : fsign z <;> cases s <;> simp_all
    rw [hz] at heq hne
    generalize hU : (if s then -(unitsOfMag (roundMag num.natAbs den) : Int)
      else unitsOfMag (roundMag num.natAbs den)) = U at heq hne
    have hnum : num = 0 := by
      rcases abs_eq_abs.1 heq with h3 | h3
      · have h4 : U * den = 0 := by linarith
        rcases mul_eq_zero.1 h4 with h4 | h4
        · exact absurd (by rw [h4]; rfl) hne
        · have : den = 0 := by exact_mod_cast h4
          omega
      · linarith
    subst hnum
    have h0 : roundMag (0 : Int).natAbs den = 0 := by simp [roundMag]
    rw [h0, unitsOfMag_zero] at hU
    apply hne
    rw [← hU]; cases s <;> rfl
  · rw [hsame] at heq
    exact h2 (le_antisymm h1 (hge.trans heq.symm.le)) hm

/-! ### Exact cases -/

theorem inf_eq {x : F32} (h : isInf x = true) : finf (fsign x) = x := by
  have : fmag x = infMag := by rw [infMag]; simpa only [isInf, decide_eq_true_eq] using h
  rw [finf, ← this, pack_fields]

/-- A finite value packed again from its units, in any scale. -/
theorem pack_roundMag_units {x : F32} (h : isFinite x = true) {c : Nat} (hc : 0 < c) :
    pack (fsign x) (roundMag (magUnits x * c) c) = x := by
  rw [magUnits_eq, roundMag_exact (by rw [infMag]; simpa only [isFinite, decide_eq_true_eq] using h) hc, pack_fields]

theorem roundInt_units {x : F32} (h : isFinite x = true) (hz : units x ≠ 0) : roundInt (units x) = x := by
  have := pack_roundMag_units h (c := 1) (by decide)
  rw [Nat.mul_one] at this
  rw [roundInt, natAbs_units, ← fsign_of_units hz, this]

theorem isFinite_of_isZero {x : F32} (h : isZero x = true) : isFinite x = true := by
  simp only [isZero, isFinite, decide_eq_true_eq] at *; omega

/-- What 1.0 is. -/
theorem one_facts : isNaN litOne = false ∧ isInf litOne = false ∧ isZero litOne = false ∧ fsign litOne = false ∧
    magUnits litOne = 2 ^ 149 := by decide +kernel

/-- Multiplying by 1.0 changes nothing. -/
theorem fmul_one {x : F32} (h : isNaN x = false) : fmul litOne x = x := by
  obtain ⟨h1, h2, h3, h4, h5⟩ := one_facts
  generalize litOne = o at *
  cases hi : isInf x
  · have hf : isFinite x = true := isFinite_iff.2 ⟨h, hi⟩
    unfold fmul
    rw [h, h1, hi, h2, h3, h4, h5, Nat.mul_comm]
    simpa using pack_roundMag_units hf (c := 2 ^ 149) (Nat.two_pow_pos 149)
  · simp only [fmul, h, h1, h2, h3, h4, hi]
    simpa using inf_eq hi

/-- Dividing by 1.0 changes nothing. -/
theorem fdiv_one {x : F32} (h : isNaN x = false) : fdiv x litOne = x := by
  obtain ⟨h1, h2, h3, h4, h5⟩ := one_facts
  generalize litOne = o at *
  cases hi : isInf x
  · have hf : isFinite x = true := isFinite_iff.2 ⟨h, hi⟩
    unfold fdiv
    rw [h, h1, hi, h2, h3, h4, h5]
    simpa using pack_roundMag_units hf (c := 2 ^ 149) (Nat.two_pow_pos 149)
  · simp only [fdiv, h, h1, h2, h3, h4, hi]
    simpa using inf_eq hi

/-- A finite value that is not zero, divided by itself, is 1.0. -/
theorem fdiv_self {x : F32} (h : isFinite x = true) (hz : isZero x = false) : fdiv x x = litOne := by
  obtain ⟨h1, h2⟩ := isFinite_iff.1 h
  have h0 : magUnits x ≠ 0 := by rw [Ne, magUnits_eq_zero]; simpa [isZero] using hz
  obtain ⟨o1, o2, o3, o4, o5⟩ := one_facts
  have := pack_roundMag_units (x := litOne) (isFinite_iff.2 ⟨o1, o2⟩) (Nat.pos_of_ne_zero h0)
  rw [o4, o5, Nat.mul_comm] at this
  unfold fdiv
  rw [h1, h2, hz, ← this]
  simp

/-- Adding a zero to a value that is not a zero changes nothing. -/
theorem fadd_zero {x z : F32} (h : isNaN x = false) (hx : isZero x = false) (hz : isZero z = true) : fadd x z = x := by
  obtain ⟨z1, z2⟩ := isFinite_iff.1 (isFinite_of_isZero hz)
  have z3 : units z = 0 := units_eq_zero.2 (by simpa [isZero] using hz)
  have hu : units x ≠ 0 := fun h => by rw [units_eq_zero] at h; simp [isZero, h] at hx
  unfold fadd
  rw [h, z1, z2]
  cases hi : isInf x
  · simp [faddFinite, z3, hu, roundInt_units (isFinite_iff.2 ⟨h, hi⟩) hu]
  · simp

/-- Subtracting a zero from a value that is not a zero changes nothing. -/
theorem fsub_zero {x z : F32} (h : isNaN x = false) (hx : isZero x = false) (hz : isZero z = true) : fsub x z = x := by
  obtain ⟨z1, z2⟩ := isFinite_iff.1 (isFinite_of_isZero hz)
  have z3 : units z = 0 := units_eq_zero.2 (by simpa [isZero] using hz)
  have hu : units x ≠ 0 := fun h => by rw [units_eq_zero] at h; simp [isZero, h] at hx
  unfold fsub
  rw [h, z1, z2]
  cases hi : isInf x
  · simp [faddFinite, units_fneg, z3, hu, roundInt_units (isFinite_iff.2 ⟨h, hi⟩) hu]
  · simp

/-- The sum of two zeros, and their difference, are zeros. -/
theorem isZero_fadd_zero {x z : F32} (hx : isZero x = true) (hz : isZero z = true) :
    isZero (fadd x z) = true ∧ isZero (fsub x z) = true := by
  obtain ⟨x1, x2⟩ := isFinite_iff.1 (isFinite_of_isZero hx)
  obtain ⟨z1, z2⟩ := isFinite_iff.1 (isFinite_of_isZero hz)
  have x3 : units x = 0 := units_eq_zero.2 (by simpa [isZero] using hx)
  have z3 : units z = 0 := units_eq_zero.2 (by simpa [isZero] using hz)
  unfold fadd fsub
  rw [x1, x2, z1, z2]
  simp [faddFinite, units_fneg, x3, z3, isZero]

/-- A zero times a finite value is a zero, on either side. -/
theorem isZero_fmul_zero {z x : F32} (hz : isZero z = true) (h : isFinite x = true) :
    isZero (fmul z x) = true ∧ isZero (fmul x z) = true := by
  obtain ⟨x1, x2⟩ := isFinite_iff.1 h
  obtain ⟨z1, z2⟩ := isFinite_iff.1 (isFinite_of_isZero hz)
  have z3 : magUnits z = 0 := by rw [magUnits_eq_zero]; simpa [isZero] using hz
  have h0 : ∀ d, roundMag 0 d = 0 := fun d => by simp [roundMag]
  unfold fmul
  rw [x1, x2, z1, z2, z3, Nat.zero_mul, Nat.mul_zero, h0]
  simp [isZero, fmag_pack]

end Sys2Proof.Machine
end

