-- ==== Sys2Proof/Laws/Decode.lean ====
section
/-! SUPPORT. The fields of an encoded command word, and the type codes. -/

namespace Sys2Proof

theorem commandWord_toNat (op inst ft : BitVec 8) :
    (commandWord op inst ft).toNat = op.toNat * 2 ^ 24 + inst.toNat * 2 ^ 16 + ft.toNat := by
  have h2 := inst.isLt; have h3 := ft.isLt
  have h0 : (0 : BitVec 8).toNat = 0 := rfl
  simp only [commandWord, BitVec.toNat_append, h0, Nat.or_zero]
  rw [← Nat.shiftLeft_add_eq_or_of_lt h2, ← Nat.shiftLeft_add_eq_or_of_lt h3]
  simp only [Nat.shiftLeft_eq]
  omega

@[simp] theorem opcodeByte_commandWord (op inst ft : BitVec 8) : opcodeByte (commandWord op inst ft) = op := by
  apply BitVec.eq_of_toNat_eq
  have h1 := op.isLt; have h2 := inst.isLt; have h3 := ft.isLt
  rw [opcodeByte, BitVec.extractLsb'_toNat, commandWord_toNat, Nat.shiftRight_eq_div_pow]
  omega

@[simp] theorem instField_commandWord (op inst ft : BitVec 8) : instField (commandWord op inst ft) = inst := by
  apply BitVec.eq_of_toNat_eq
  have h1 := op.isLt; have h2 := inst.isLt; have h3 := ft.isLt
  rw [instField, BitVec.extractLsb'_toNat, commandWord_toNat, Nat.shiftRight_eq_div_pow]
  omega

@[simp] theorem rsvdField_commandWord (op inst ft : BitVec 8) : rsvdField (commandWord op inst ft) = 0 := by
  apply BitVec.eq_of_toNat_eq
  have h1 := op.isLt; have h2 := inst.isLt; have h3 := ft.isLt
  rw [rsvdField, BitVec.extractLsb'_toNat, commandWord_toNat, Nat.shiftRight_eq_div_pow,
    show (0 : BitVec 8).toNat = 0 from rfl]
  omega

@[simp] theorem ftypeField_commandWord (op inst ft : BitVec 8) : ftypeField (commandWord op inst ft) = ft := by
  apply BitVec.eq_of_toNat_eq
  have h1 := op.isLt; have h2 := inst.isLt; have h3 := ft.isLt
  rw [ftypeField, BitVec.extractLsb'_toNat, commandWord_toNat, Nat.shiftRight_eq_div_pow]
  omega

/-- Every command word is its four fields. -/
theorem commandWord_fields {cw : BitVec 32} (h : rsvdField cw = 0) :
    commandWord (opcodeByte cw) (instField cw) (ftypeField cw) = cw := by
  apply BitVec.eq_of_toNat_eq
  have h0 := congrArg BitVec.toNat h
  have hw := cw.isLt
  rw [rsvdField, BitVec.extractLsb'_toNat, Nat.shiftRight_eq_div_pow, show (0 : BitVec 8).toNat = 0 from rfl] at h0
  rw [commandWord_toNat, opcodeByte, instField, ftypeField]
  simp only [BitVec.extractLsb'_toNat, Nat.shiftRight_eq_div_pow]
  omega

/-- The type codes are read back (rule R76). -/
@[simp] theorem FilterType.ofCode_code (t : FilterType) : FilterType.ofCode t.code = some t := by
  cases t <;> rfl

/-- Only the code of a type reads as it. -/
theorem FilterType.code_of_ofCode {code : BitVec 8} {t : FilterType} (h : FilterType.ofCode code = some t) :
    t.code = code := by
  revert h; revert code t
  decide +kernel

end Sys2Proof
end

