-- ==== Sys2Proof/Laws/Ops.lean ====
section
/-! SUPPORT. What the operations over the instances can do: run the command on the instance that exists, or refuse it as
illegal (rule R77). -/

namespace Sys2Proof.Machine

/-- On an instance that exists the command runs on it. -/
theorem withBq_of_get {s : State} {i : BitVec 8} {b : Biquad} (h : s.bq[i.toNat]? = some b) (k : Biquad → Result) :
    withBq s i k = k b := by simp [withBq, h]

/-- On an instance that does not exist the command is illegal. -/
theorem withBq_of_ge {s : State} {i : BitVec 8} (h : s.bq.length ≤ i.toNat) (k : Biquad → Result) :
    withBq s i k = .refused .illegalCommand := by simp [withBq, h]

/-- A command that completes names an instance that exists. -/
theorem withBq_next {s t : State} {i : BitVec 8} {k : Biquad → Result} (h : withBq s i k = .next t) :
    ∃ b, s.bq[i.toNat]? = some b ∧ k b = .next t := by
  unfold withBq at h; split at h
  · exact ⟨_, ‹_›, h⟩
  · cases h

/-- A command that is refused either names no instance that exists, or is refused on the one it names. -/
theorem withBq_refused {s : State} {i : BitVec 8} {k : Biquad → Result} {r : Refusal} (h : withBq s i k = .refused r) :
    (s.bq.length ≤ i.toNat ∧ r = .illegalCommand) ∨ ∃ b, s.bq[i.toNat]? = some b ∧ k b = .refused r := by
  unfold withBq at h; split at h
  · exact .inr ⟨_, ‹_›, h⟩
  · rename_i hn; cases h; exact .inl ⟨by simpa using hn, rfl⟩

/-- A command that faults does so on the instance it names. -/
theorem withBq_fault {s : State} {i : BitVec 8} {k : Biquad → Result} {r : Fault} (h : withBq s i k = .fault r) :
    ∃ b, s.bq[i.toNat]? = some b ∧ k b = .fault r := by
  unfold withBq at h; split at h
  · exact ⟨_, ‹_›, h⟩
  · cases h

/-- On an instance that exists the command runs on it. -/
theorem withEf_of_get {s : State} {i : BitVec 8} {b : Follower} (h : s.ef[i.toNat]? = some b) (k : Follower → Result) :
    withEf s i k = k b := by simp [withEf, h]

/-- On an instance that does not exist the command is illegal. -/
theorem withEf_of_ge {s : State} {i : BitVec 8} (h : s.ef.length ≤ i.toNat) (k : Follower → Result) :
    withEf s i k = .refused .illegalCommand := by simp [withEf, h]

/-- A command that completes names an instance that exists. -/
theorem withEf_next {s t : State} {i : BitVec 8} {k : Follower → Result} (h : withEf s i k = .next t) :
    ∃ b, s.ef[i.toNat]? = some b ∧ k b = .next t := by
  unfold withEf at h; split at h
  · exact ⟨_, ‹_›, h⟩
  · cases h

/-- A command that is refused either names no instance that exists, or is refused on the one it names. -/
theorem withEf_refused {s : State} {i : BitVec 8} {k : Follower → Result} {r : Refusal} (h : withEf s i k = .refused r) :
    (s.ef.length ≤ i.toNat ∧ r = .illegalCommand) ∨ ∃ b, s.ef[i.toNat]? = some b ∧ k b = .refused r := by
  unfold withEf at h; split at h
  · exact .inr ⟨_, ‹_›, h⟩
  · rename_i hn; cases h; exact .inl ⟨by simpa using hn, rfl⟩

/-- A command that faults does so on the instance it names. -/
theorem withEf_fault {s : State} {i : BitVec 8} {k : Follower → Result} {r : Fault} (h : withEf s i k = .fault r) :
    ∃ b, s.ef[i.toNat]? = some b ∧ k b = .fault r := by
  unfold withEf at h; split at h
  · exact ⟨_, ‹_›, h⟩
  · cases h

/-- On an instance that exists the command runs on it. -/
theorem withComp_of_get {s : State} {i : BitVec 8} {b : Compressor} (h : s.comp[i.toNat]? = some b) (k : Compressor → Result) :
    withComp s i k = k b := by simp [withComp, h]

/-- On an instance that does not exist the command is illegal. -/
theorem withComp_of_ge {s : State} {i : BitVec 8} (h : s.comp.length ≤ i.toNat) (k : Compressor → Result) :
    withComp s i k = .refused .illegalCommand := by simp [withComp, h]

/-- A command that completes names an instance that exists. -/
theorem withComp_next {s t : State} {i : BitVec 8} {k : Compressor → Result} (h : withComp s i k = .next t) :
    ∃ b, s.comp[i.toNat]? = some b ∧ k b = .next t := by
  unfold withComp at h; split at h
  · exact ⟨_, ‹_›, h⟩
  · cases h

/-- A command that is refused either names no instance that exists, or is refused on the one it names. -/
theorem withComp_refused {s : State} {i : BitVec 8} {k : Compressor → Result} {r : Refusal} (h : withComp s i k = .refused r) :
    (s.comp.length ≤ i.toNat ∧ r = .illegalCommand) ∨ ∃ b, s.comp[i.toNat]? = some b ∧ k b = .refused r := by
  unfold withComp at h; split at h
  · exact .inr ⟨_, ‹_›, h⟩
  · rename_i hn; cases h; exact .inl ⟨by simpa using hn, rfl⟩

/-- A command that faults does so on the instance it names. -/
theorem withComp_fault {s : State} {i : BitVec 8} {k : Compressor → Result} {r : Fault} (h : withComp s i k = .fault r) :
    ∃ b, s.comp[i.toNat]? = some b ∧ k b = .fault r := by
  unfold withComp at h; split at h
  · exact ⟨_, ‹_›, h⟩
  · cases h

/-- On an instance that exists the command runs on it. -/
theorem withDl_of_get {s : State} {i : BitVec 8} {b : DelayLine} (h : s.dl[i.toNat]? = some b) (k : DelayLine → Result) :
    withDl s i k = k b := by simp [withDl, h]

/-- On an instance that does not exist the command is illegal. -/
theorem withDl_of_ge {s : State} {i : BitVec 8} (h : s.dl.length ≤ i.toNat) (k : DelayLine → Result) :
    withDl s i k = .refused .illegalCommand := by simp [withDl, h]

/-- A command that completes names an instance that exists. -/
theorem withDl_next {s t : State} {i : BitVec 8} {k : DelayLine → Result} (h : withDl s i k = .next t) :
    ∃ b, s.dl[i.toNat]? = some b ∧ k b = .next t := by
  unfold withDl at h; split at h
  · exact ⟨_, ‹_›, h⟩
  · cases h

/-- A command that is refused either names no instance that exists, or is refused on the one it names. -/
theorem withDl_refused {s : State} {i : BitVec 8} {k : DelayLine → Result} {r : Refusal} (h : withDl s i k = .refused r) :
    (s.dl.length ≤ i.toNat ∧ r = .illegalCommand) ∨ ∃ b, s.dl[i.toNat]? = some b ∧ k b = .refused r := by
  unfold withDl at h; split at h
  · exact .inr ⟨_, ‹_›, h⟩
  · rename_i hn; cases h; exact .inl ⟨by simpa using hn, rfl⟩

/-- A command that faults does so on the instance it names. -/
theorem withDl_fault {s : State} {i : BitVec 8} {k : DelayLine → Result} {r : Fault} (h : withDl s i k = .fault r) :
    ∃ b, s.dl[i.toNat]? = some b ∧ k b = .fault r := by
  unfold withDl at h; split at h
  · exact ⟨_, ‹_›, h⟩
  · cases h

end Sys2Proof.Machine
end

