-- ==== Sys2Proof/Laws/State.lean ====
section
/-! SUPPORT. One lemma per field per update of the state, true by rfl, and the lengths of the four arrays. -/

namespace Sys2Proof.Machine

@[simp] theorem State.respond_bq (s : State) (r : Response) : (s.respond r).bq = s.bq := rfl
@[simp] theorem State.respond_ef (s : State) (r : Response) : (s.respond r).ef = s.ef := rfl
@[simp] theorem State.respond_comp (s : State) (r : Response) : (s.respond r).comp = s.comp := rfl
@[simp] theorem State.respond_dl (s : State) (r : Response) : (s.respond r).dl = s.dl := rfl
@[simp] theorem State.respond_params (s : State) (r : Response) : (s.respond r).params = s.params := rfl
@[simp] theorem State.respond_port (s : State) (r : Response) : (s.respond r).port = s.port := rfl
@[simp] theorem State.respond_response (s : State) (r : Response) : (s.respond r).response = some r := rfl

@[simp] theorem State.setBq_bq (s : State) (i : BitVec 8) (b : Biquad) : (s.setBq i b).bq = s.bq.set i.toNat b := rfl
@[simp] theorem State.setBq_ef (s : State) (i : BitVec 8) (b : Biquad) : (s.setBq i b).ef = s.ef := rfl
@[simp] theorem State.setBq_comp (s : State) (i : BitVec 8) (b : Biquad) : (s.setBq i b).comp = s.comp := rfl
@[simp] theorem State.setBq_dl (s : State) (i : BitVec 8) (b : Biquad) : (s.setBq i b).dl = s.dl := rfl
@[simp] theorem State.setBq_params (s : State) (i : BitVec 8) (b : Biquad) : (s.setBq i b).params = s.params := rfl
@[simp] theorem State.setBq_port (s : State) (i : BitVec 8) (b : Biquad) : (s.setBq i b).port = s.port := rfl
@[simp] theorem State.setBq_response (s : State) (i : BitVec 8) (b : Biquad) : (s.setBq i b).response = s.response := rfl

@[simp] theorem State.setEf_bq (s : State) (i : BitVec 8) (e : Follower) : (s.setEf i e).bq = s.bq := rfl
@[simp] theorem State.setEf_ef (s : State) (i : BitVec 8) (e : Follower) : (s.setEf i e).ef = s.ef.set i.toNat e := rfl
@[simp] theorem State.setEf_comp (s : State) (i : BitVec 8) (e : Follower) : (s.setEf i e).comp = s.comp := rfl
@[simp] theorem State.setEf_dl (s : State) (i : BitVec 8) (e : Follower) : (s.setEf i e).dl = s.dl := rfl
@[simp] theorem State.setEf_params (s : State) (i : BitVec 8) (e : Follower) : (s.setEf i e).params = s.params := rfl
@[simp] theorem State.setEf_port (s : State) (i : BitVec 8) (e : Follower) : (s.setEf i e).port = s.port := rfl
@[simp] theorem State.setEf_response (s : State) (i : BitVec 8) (e : Follower) : (s.setEf i e).response = s.response := rfl

@[simp] theorem State.setComp_bq (s : State) (i : BitVec 8) (c : Compressor) : (s.setComp i c).bq = s.bq := rfl
@[simp] theorem State.setComp_ef (s : State) (i : BitVec 8) (c : Compressor) : (s.setComp i c).ef = s.ef := rfl
@[simp] theorem State.setComp_comp (s : State) (i : BitVec 8) (c : Compressor) : (s.setComp i c).comp = s.comp.set i.toNat c := rfl
@[simp] theorem State.setComp_dl (s : State) (i : BitVec 8) (c : Compressor) : (s.setComp i c).dl = s.dl := rfl
@[simp] theorem State.setComp_params (s : State) (i : BitVec 8) (c : Compressor) : (s.setComp i c).params = s.params := rfl
@[simp] theorem State.setComp_port (s : State) (i : BitVec 8) (c : Compressor) : (s.setComp i c).port = s.port := rfl
@[simp] theorem State.setComp_response (s : State) (i : BitVec 8) (c : Compressor) : (s.setComp i c).response = s.response := rfl

@[simp] theorem State.setDl_bq (s : State) (i : BitVec 8) (d : DelayLine) : (s.setDl i d).bq = s.bq := rfl
@[simp] theorem State.setDl_ef (s : State) (i : BitVec 8) (d : DelayLine) : (s.setDl i d).ef = s.ef := rfl
@[simp] theorem State.setDl_comp (s : State) (i : BitVec 8) (d : DelayLine) : (s.setDl i d).comp = s.comp := rfl
@[simp] theorem State.setDl_dl (s : State) (i : BitVec 8) (d : DelayLine) : (s.setDl i d).dl = s.dl.set i.toNat d := rfl
@[simp] theorem State.setDl_params (s : State) (i : BitVec 8) (d : DelayLine) : (s.setDl i d).params = s.params := rfl
@[simp] theorem State.setDl_port (s : State) (i : BitVec 8) (d : DelayLine) : (s.setDl i d).port = s.port := rfl
@[simp] theorem State.setDl_response (s : State) (i : BitVec 8) (d : DelayLine) : (s.setDl i d).response = s.response := rfl

@[simp] theorem State.issue_bq (s : State) (c : Command) : (s.issue c).bq = s.bq := rfl
@[simp] theorem State.issue_ef (s : State) (c : Command) : (s.issue c).ef = s.ef := rfl
@[simp] theorem State.issue_comp (s : State) (c : Command) : (s.issue c).comp = s.comp := rfl
@[simp] theorem State.issue_dl (s : State) (c : Command) : (s.issue c).dl = s.dl := rfl
@[simp] theorem State.issue_params (s : State) (c : Command) : (s.issue c).params = s.params := rfl
@[simp] theorem State.issue_port (s : State) (c : Command) : (s.issue c).port = c :: s.port := rfl
@[simp] theorem State.issue_response (s : State) (c : Command) : (s.issue c).response = s.response := rfl

@[simp] theorem State.respond_counts (s : State) (r : Response) : (s.respond r).counts = s.counts := rfl
@[simp] theorem State.setBq_counts (s : State) (i : BitVec 8) (b : Biquad) : (s.setBq i b).counts = s.counts := by simp [State.counts]
@[simp] theorem State.setEf_counts (s : State) (i : BitVec 8) (e : Follower) : (s.setEf i e).counts = s.counts := by simp [State.counts]
@[simp] theorem State.setComp_counts (s : State) (i : BitVec 8) (c : Compressor) : (s.setComp i c).counts = s.counts := by simp [State.counts]
@[simp] theorem State.setDl_counts (s : State) (i : BitVec 8) (d : DelayLine) : (s.setDl i d).counts = s.counts := by simp [State.counts]

@[simp] theorem Biquad.load_coefWritten (b : Biquad) (c : Coefs) : (b.load c).coefWritten = true := rfl
@[simp] theorem Biquad.load_coef (b : Biquad) (c : Coefs) : (b.load c).coef = c := rfl
@[simp] theorem Biquad.load_x1 (b : Biquad) (c : Coefs) : (b.load c).x1 = b.x1 := rfl
@[simp] theorem Biquad.load_x2 (b : Biquad) (c : Coefs) : (b.load c).x2 = b.x2 := rfl
@[simp] theorem Biquad.load_y1 (b : Biquad) (c : Coefs) : (b.load c).y1 = b.y1 := rfl
@[simp] theorem Biquad.load_y2 (b : Biquad) (c : Coefs) : (b.load c).y2 = b.y2 := rfl
@[simp] theorem Biquad.shift_coefWritten (b : Biquad) (x y : F32) : (b.shift x y).coefWritten = b.coefWritten := rfl
@[simp] theorem Biquad.shift_coef (b : Biquad) (x y : F32) : (b.shift x y).coef = b.coef := rfl
@[simp] theorem Biquad.shift_x1 (b : Biquad) (x y : F32) : (b.shift x y).x1 = x := rfl
@[simp] theorem Biquad.shift_x2 (b : Biquad) (x y : F32) : (b.shift x y).x2 = b.x1 := rfl
@[simp] theorem Biquad.shift_y1 (b : Biquad) (x y : F32) : (b.shift x y).y1 = y := rfl
@[simp] theorem Biquad.shift_y2 (b : Biquad) (x y : F32) : (b.shift x y).y2 = b.y1 := rfl
@[simp] theorem Biquad.zeroHistory_coefWritten (b : Biquad) : b.zeroHistory.coefWritten = b.coefWritten := rfl
@[simp] theorem Biquad.zeroHistory_coef (b : Biquad) : b.zeroHistory.coef = b.coef := rfl
@[simp] theorem Biquad.zeroHistory_x1 (b : Biquad) : b.zeroHistory.x1 = litZero := rfl
@[simp] theorem Biquad.zeroHistory_x2 (b : Biquad) : b.zeroHistory.x2 = litZero := rfl
@[simp] theorem Biquad.zeroHistory_y1 (b : Biquad) : b.zeroHistory.y1 = litZero := rfl
@[simp] theorem Biquad.zeroHistory_y2 (b : Biquad) : b.zeroHistory.y2 = litZero := rfl

@[simp] theorem efSettimes_env (N : Numerics) (e : Follower) (a r s : F32) : (efSettimes N e a r s).env = e.env := rfl
@[simp] theorem efSettimes_timesWritten (N : Numerics) (e : Follower) (a r s : F32) :
    (efSettimes N e a r s).timesWritten = true := rfl
@[simp] theorem efSettimes_attackCoeff (N : Numerics) (e : Follower) (a r s : F32) :
    (efSettimes N e a r s).attackCoeff = timeCoeff N a s := rfl
@[simp] theorem efSettimes_releaseCoeff (N : Numerics) (e : Follower) (a r s : F32) :
    (efSettimes N e a r s).releaseCoeff = timeCoeff N r s := rfl
@[simp] theorem efProcess_env (e : Follower) (x : F32) : (efProcess e x).env = e.level x := by simp only [efProcess]
@[simp] theorem efProcess_timesWritten (e : Follower) (x : F32) : (efProcess e x).timesWritten = e.timesWritten := by simp only [efProcess]
@[simp] theorem efProcess_attackCoeff (e : Follower) (x : F32) : (efProcess e x).attackCoeff = e.attackCoeff := by simp only [efProcess]
@[simp] theorem efProcess_releaseCoeff (e : Follower) (x : F32) : (efProcess e x).releaseCoeff = e.releaseCoeff := by simp only [efProcess]
@[simp] theorem efReset_env (e : Follower) : (efReset e).env = litZero := rfl
@[simp] theorem efReset_timesWritten (e : Follower) : (efReset e).timesWritten = e.timesWritten := rfl
@[simp] theorem efReset_attackCoeff (e : Follower) : (efReset e).attackCoeff = e.attackCoeff := rfl
@[simp] theorem efReset_releaseCoeff (e : Follower) : (efReset e).releaseCoeff = e.releaseCoeff := rfl

@[simp] theorem DelayLine.cleared_configured (d : DelayLine) : d.cleared.configured = d.configured := rfl
@[simp] theorem DelayLine.cleared_len (d : DelayLine) : d.cleared.len = d.len := rfl
@[simp] theorem DelayLine.cleared_rate (d : DelayLine) : d.cleared.rate = d.rate := rfl
@[simp] theorem DelayLine.cleared_wpos (d : DelayLine) : d.cleared.wpos = 0 := rfl
@[simp] theorem DelayLine.cleared_buf (d : DelayLine) : d.cleared.buf = memZeroed := rfl
@[simp] theorem DelayLine.configure_configured (d : DelayLine) (n : Nat) (r : F32) : (d.configure n r).configured = true := rfl
@[simp] theorem DelayLine.configure_len (d : DelayLine) (n : Nat) (r : F32) : (d.configure n r).len = n := rfl
@[simp] theorem DelayLine.configure_rate (d : DelayLine) (n : Nat) (r : F32) : (d.configure n r).rate = r := rfl
@[simp] theorem DelayLine.configure_wpos (d : DelayLine) (n : Nat) (r : F32) : (d.configure n r).wpos = 0 := rfl
@[simp] theorem DelayLine.configure_buf (d : DelayLine) (n : Nat) (r : F32) : (d.configure n r).buf = memZeroed := rfl
@[simp] theorem DelayLine.advance_configured (d : DelayLine) : d.advance.configured = d.configured := rfl
@[simp] theorem DelayLine.advance_len (d : DelayLine) : d.advance.len = d.len := rfl
@[simp] theorem DelayLine.advance_rate (d : DelayLine) : d.advance.rate = d.rate := rfl
@[simp] theorem DelayLine.advance_wpos (d : DelayLine) : d.advance.wpos = nextPos d.wpos d.len := rfl
@[simp] theorem DelayLine.advance_buf (d : DelayLine) : d.advance.buf = d.buf := rfl

end Sys2Proof.Machine
end

