-- ==== Sys2Proof/Laws/Exec.lean ====
section
/-! SUPPORT. What an instruction that completes can do to the machine, said once: it leaves everything but the response and
the one instance it names, and changes that instance in one of the ways its unit has. -/

namespace Sys2Proof.Machine

/-- What a command can do to a biquad stage: load coefficients, process a sample, or zero the history. -/
def BqStep (b b' : Biquad) : Prop :=
  (∃ c, b' = b.load c) ∨ (b.coefWritten = true ∧ ∃ x, b' = b.shift x (b.output x)) ∨ b' = b.zeroHistory

/-- What a command can do to a follower: set the times, process a sample, or zero the envelope. -/
def EfStep (e e' : Follower) : Prop :=
  (∃ am rm sr, e' = efSettimes Config.num e am rm sr) ∨ (e.timesWritten = true ∧ ∃ x, e' = efProcess e x) ∨ e' = efReset e

/-- What a command can do to a delay line of capacity `maxLen`: configure it, set its rate, process a sample, or clear it. -/
def DlStep (maxLen : Nat) (d d' : DelayLine) : Prop :=
  (∃ n r, 1 ≤ n ∧ n ≤ maxLen ∧ d' = d.configure n r) ∨
  (d.configured = true ∧ ∃ i n r, 1 ≤ n ∧ n ≤ maxLen ∧ d' = d.setRate i n r) ∨
  (d.configured = true ∧ d.wpos < d.len ∧ ∃ v, d' = DelayLine.advance { d with buf := memWrite d.buf d.wpos v }) ∨
  (d.configured = true ∧ d' = d.cleared)

/-- What an instruction that completes can do. -/
def ExecStep (i : Instr) (s t : State) : Prop :=
  ∃ r : Response, r.lanes = resultLanes i ∧
    ((target i = .none ∧ t = s.respond r) ∨
    (∃ (n : BitVec 8) (b b' : Biquad), target i = .bq n.toNat ∧ s.bq[n.toNat]? = some b ∧ BqStep b b' ∧
      t = (s.setBq n b').respond r) ∨
    (∃ (n : BitVec 8) (e e' : Follower), target i = .ef n.toNat ∧ s.ef[n.toNat]? = some e ∧ EfStep e e' ∧
      t = (s.setEf n e').respond r) ∨
    (∃ (n : BitVec 8) (c c' : Compressor), target i = .comp n.toNat ∧ s.comp[n.toNat]? = some c ∧ EfStep c.ef c'.ef ∧
      t = (s.setComp n c').respond r) ∨
    (∃ (n : BitVec 8) (d d' : DelayLine), target i = .dl n.toNat ∧ s.dl[n.toNat]? = some d ∧ DlStep s.params.dlMaxLen d d' ∧
      t = (s.setDl n d').respond r))

theorem dlLength_pos (a b : F32) : 1 ≤ dlLength a b := Nat.le_add_left 1 _

/-- A command on a stage that finishes is a step of that stage. -/
theorem bqStep_exec {i : Instr} {s t : State} {n : BitVec 8} (hi : target i = .bq n.toNat) {f : Biquad → Biquad}
    {g : Biquad → Response} (hl : ∀ b, (g b).lanes = resultLanes i) (hs : ∀ b, BqStep b (f b))
    (h : withBq s n (fun b => finishBq s n (f b) (g b)) = .next t) : ExecStep i s t := by
  obtain ⟨b, hb, hk⟩ := withBq_next h
  cases hk
  exact ⟨_, hl b, .inr (.inl ⟨n, b, f b, hi, hb, hs b, rfl⟩)⟩

theorem coefDerive_step {i : Instr} {s t : State} {ty : FilterType} {f q g sr : F32} (hi : target i = .none)
    (hl : resultLanes i = 5) (h : coefDerive ty f q g sr s = .next t) : ExecStep i s t := by
  cases h; exact ⟨.coefs _, by rw [hl]; rfl, .inl ⟨hi, rfl⟩⟩

theorem bqUpdate_step {i : Instr} {s t : State} {n : BitVec 8} {ty : FilterType} {f q g sr : F32}
    (hi : target i = .bq n.toNat) (hl : resultLanes i = 0) (h : bqUpdate ty n f q g sr s = .next t) : ExecStep i s t :=
  bqStep_exec (g := fun _ => .empty) hi (fun _ => by rw [hl]; rfl) (fun _ => .inl ⟨_, rfl⟩) h

/-- What an instruction that completes can do, for every instruction. -/
theorem exec_next {i : Instr} {s t : State} (h : exec i s = .next t) : ExecStep i s t := by
  cases i with
  | coefDeriveLpf f q g sr => exact coefDerive_step rfl rfl h
  | coefDeriveHpf f q g sr => exact coefDerive_step rfl rfl h
  | coefDeriveBpfPeakq f q g sr => exact coefDerive_step rfl rfl h
  | coefDeriveBpf0db f q g sr => exact coefDerive_step rfl rfl h
  | coefDeriveNotch f q g sr => exact coefDerive_step rfl rfl h
  | coefDeriveApf f q g sr => exact coefDerive_step rfl rfl h
  | coefDeriveLp1 f q g sr => exact coefDerive_step rfl rfl h
  | coefDeriveHp1 f q g sr => exact coefDerive_step rfl rfl h
  | coefDerivePeak f q g sr => exact coefDerive_step rfl rfl h
  | coefDeriveLshelf f q g sr => exact coefDerive_step rfl rfl h
  | coefDeriveHshelf f q g sr => exact coefDerive_step rfl rfl h
  | coefDeriveTilt f q g sr => exact coefDerive_step rfl rfl h
  | coefDeriveLrLp f q g sr => exact coefDerive_step rfl rfl h
  | coefDeriveLrHp f q g sr => exact coefDerive_step rfl rfl h
  | coefDeriveBwLp f q g sr => exact coefDerive_step rfl rfl h
  | coefDeriveBwHp f q g sr => exact coefDerive_step rfl rfl h
  | coefDeriveWarmth f q g sr => exact coefDerive_step rfl rfl h
  | coefDeriveBright f q g sr => exact coefDerive_step rfl rfl h
  | coefDerivePresence f q g sr => exact coefDerive_step rfl rfl h
  | coefDeriveAir f q g sr => exact coefDerive_step rfl rfl h
  | coefDeriveSubbass f q g sr => exact coefDerive_step rfl rfl h
  | coefDeriveVocal f q g sr => exact coefDerive_step rfl rfl h
  | coefDeriveDcblock f q g sr => exact coefDerive_step rfl rfl h
  | coefDeriveUnity f q g sr => exact coefDerive_step rfl rfl h
  | bqUpdateLpf n f q g sr => exact bqUpdate_step rfl rfl h
  | bqUpdateHpf n f q g sr => exact bqUpdate_step rfl rfl h
  | bqUpdateBpfPeakq n f q g sr => exact bqUpdate_step rfl rfl h
  | bqUpdateBpf0db n f q g sr => exact bqUpdate_step rfl rfl h
  | bqUpdateNotch n f q g sr => exact bqUpdate_step rfl rfl h
  | bqUpdateApf n f q g sr => exact bqUpdate_step rfl rfl h
  | bqUpdateLp1 n f q g sr => exact bqUpdate_step rfl rfl h
  | bqUpdateHp1 n f q g sr => exact bqUpdate_step rfl rfl h
  | bqUpdatePeak n f q g sr => exact bqUpdate_step rfl rfl h
  | bqUpdateLshelf n f q g sr => exact bqUpdate_step rfl rfl h
  | bqUpdateHshelf n f q g sr => exact bqUpdate_step rfl rfl h
  | bqUpdateTilt n f q g sr => exact bqUpdate_step rfl rfl h
  | bqUpdateLrLp n f q g sr => exact bqUpdate_step rfl rfl h
  | bqUpdateLrHp n f q g sr => exact bqUpdate_step rfl rfl h
  | bqUpdateBwLp n f q g sr => exact bqUpdate_step rfl rfl h
  | bqUpdateBwHp n f q g sr => exact bqUpdate_step rfl rfl h
  | bqUpdateWarmth n f q g sr => exact bqUpdate_step rfl rfl h
  | bqUpdateBright n f q g sr => exact bqUpdate_step rfl rfl h
  | bqUpdatePresence n f q g sr => exact bqUpdate_step rfl rfl h
  | bqUpdateAir n f q g sr => exact bqUpdate_step rfl rfl h
  | bqUpdateSubbass n f q g sr => exact bqUpdate_step rfl rfl h
  | bqUpdateVocal n f q g sr => exact bqUpdate_step rfl rfl h
  | bqUpdateDcblock n f q g sr => exact bqUpdate_step rfl rfl h
  | bqUpdateUnity n f q g sr => exact bqUpdate_step rfl rfl h
  | bqSetcoef n b0 b1 b2 a1 a2 => exact bqStep_exec rfl (fun _ => rfl) (fun _ => .inl ⟨_, rfl⟩) h
  | bqProcess n x =>
    obtain ⟨b, hb, hk⟩ := withBq_next h
    split at hk
    · cases hk; exact ⟨_, rfl, .inr (.inl ⟨n, b, _, rfl, hb, .inr (.inl ⟨‹_›, x, rfl⟩), rfl⟩)⟩
    · cases hk
  | bqReset n => exact bqStep_exec rfl (fun _ => rfl) (fun _ => .inr (.inr rfl)) h
  | envSettimes n am rm sr =>
    obtain ⟨e, he, hk⟩ := withEf_next h
    cases hk; exact ⟨_, rfl, .inr (.inr (.inl ⟨n, e, _, rfl, he, .inl ⟨am, rm, sr, rfl⟩, rfl⟩))⟩
  | envProcess n x =>
    obtain ⟨e, he, hk⟩ := withEf_next h
    split at hk
    · cases hk; exact ⟨_, rfl, .inr (.inr (.inl ⟨n, e, _, rfl, he, .inr (.inl ⟨‹_›, x, rfl⟩), rfl⟩))⟩
    · cases hk
  | envReset n =>
    obtain ⟨e, he, hk⟩ := withEf_next h
    cases hk; exact ⟨_, rfl, .inr (.inr (.inl ⟨n, e, _, rfl, he, .inr (.inr rfl), rfl⟩))⟩
  | compSettimes n am rm sr =>
    obtain ⟨c, hc, hk⟩ := withComp_next h
    cases hk; exact ⟨_, rfl, .inr (.inr (.inr (.inl ⟨n, c, _, rfl, hc, .inl ⟨am, rm, sr, rfl⟩, rfl⟩)))⟩
  | compProcess n l r thr ratio knee =>
    obtain ⟨c, hc, hk⟩ := withComp_next h
    split at hk
    · cases hk; exact ⟨_, rfl, .inr (.inr (.inr (.inl ⟨n, c, _, rfl, hc, .inr (.inl ⟨‹_›, _, rfl⟩), rfl⟩)))⟩
    · cases hk
  | compReset n =>
    obtain ⟨c, hc, hk⟩ := withComp_next h
    cases hk; exact ⟨_, rfl, .inr (.inr (.inr (.inl ⟨n, c, _, rfl, hc, .inr (.inr rfl), rfl⟩)))⟩
  | dlConstruct n ms sr =>
    obtain ⟨d, hd, hk⟩ := withDl_next h
    split at hk
    · cases hk
    · cases hk
      exact ⟨_, rfl, .inr (.inr (.inr (.inr ⟨n, d, _, rfl, hd,
        .inl ⟨_, _, dlLength_pos _ _, Nat.le_of_not_lt ‹_›, rfl⟩, rfl⟩)))⟩
  | dlSetrate n rate ms =>
    obtain ⟨d, hd, hk⟩ := withDl_next h
    split at hk
    · cases hk
    · rename_i hc
      split at hk
      · cases hk
      · cases hk
        exact ⟨_, rfl, .inr (.inr (.inr (.inr ⟨n, d, _, rfl, hd,
          .inr (.inl ⟨by simpa using hc, n, _, _, dlLength_pos _ _, Nat.le_of_not_lt ‹_›, rfl⟩), rfl⟩)))⟩
  | dlProcess n x ms fb =>
    obtain ⟨d, hd, hk⟩ := withDl_next h
    split at hk
    · cases hk
    · split at hk
      · cases hk
      · split at hk
        · cases hk
        · rename_i out _ _ d' hw
          cases hk
          have hw' := hw
          unfold DelayLine.write at hw'
          split at hw'
          · rename_i hcl
            simp only [Bool.and_eq_true, decide_eq_true_eq] at hcl
            cases hw'
            exact ⟨_, rfl, .inr (.inr (.inr (.inr ⟨n, d, _, rfl, hd, .inr (.inr (.inl ⟨hcl.1, hcl.2, _, rfl⟩)), rfl⟩)))⟩
          · cases hw'
  | dlReset n =>
    obtain ⟨d, hd, hk⟩ := withDl_next h
    split at hk
    · cases hk
    · rename_i hc
      cases hk
      exact ⟨_, rfl, .inr (.inr (.inr (.inr ⟨n, d, _, rfl, hd, .inr (.inr (.inr ⟨by simpa using hc, rfl⟩)), rfl⟩)))⟩

/-- What a step that answers a next state can do: nothing when no command waits, else one decoded instruction. -/
theorem step_next {s t : State} (h : step s = .next t) :
    (s.port = [] ∧ t = s) ∨ ∃ c rest i, s.port = c :: rest ∧ decode c = .ok i ∧ exec i { s with port := rest } = .next t := by
  unfold step State.accept at h
  cases hp : s.port with
  | nil => rw [hp] at h; cases h; exact .inl ⟨rfl, rfl⟩
  | cons c rest =>
    rw [hp] at h
    simp only [runCommand] at h
    split at h
    · exact .inr ⟨c, rest, _, rfl, ‹_›, h⟩
    · cases h

end Sys2Proof.Machine
end

