-- ==== Sys2Proof/Laws/Memory.lean ====
section
/-! SUPPORT. The laws of a delay memory: a read after a write, and that every operation keeps the canonical form. -/

namespace Sys2Proof.Machine

@[simp] theorem memRead_zeroed (n : Nat) : memRead memZeroed n = 0 := rfl

@[simp] theorem memWf_zeroed (len : Nat) : memWf len memZeroed = true := rfl

/-- Nothing is listed below the bound, so a read there gives the unlisted value. -/
theorem memRead_of_lt {lo hi : Nat} {m : SampleMem} (h : memWfFrom lo hi m = true) {n : Nat} (hn : n < lo) :
    memRead m n = unlistedSample := by
  induction m generalizing lo with
  | nil => rfl
  | cons p rest ih =>
    obtain ⟨a, x⟩ := p
    simp only [memWfFrom, Bool.and_eq_true, decide_eq_true_eq] at h
    rw [memRead, if_neg (by omega), ih h.2 (by omega)]

theorem memWfFrom_mono {lo lo' hi : Nat} {m : SampleMem} (h : memWfFrom lo hi m = true) (hl : lo' ≤ lo) :
    memWfFrom lo' hi m = true := by
  cases m with
  | nil => rfl
  | cons p rest =>
    simp only [memWfFrom, Bool.and_eq_true, decide_eq_true_eq] at h ⊢
    exact ⟨⟨⟨by omega, h.1.1.2⟩, h.1.2⟩, h.2⟩

/-- A write inside the bounds keeps the canonical form. -/
theorem memWfFrom_write {lo hi : Nat} {m : SampleMem} (h : memWfFrom lo hi m = true) {n : Nat} (hlo : lo ≤ n) (hhi : n < hi)
    (v : F32) : memWfFrom lo hi (memWrite m n v) = true := by
  induction m generalizing lo with
  | nil =>
    by_cases hv : v = unlistedSample
    · simp [memWrite, hv, memWfFrom]
    · simp only [memWrite, if_neg hv, memWfFrom, Bool.and_eq_true, decide_eq_true_eq]
      exact ⟨⟨⟨hlo, hhi⟩, hv⟩, trivial⟩
  | cons p rest ih =>
    obtain ⟨a, x⟩ := p
    have h' := h
    simp only [memWfFrom, Bool.and_eq_true, decide_eq_true_eq] at h'
    obtain ⟨⟨⟨h1, h2⟩, h3⟩, h4⟩ := h'
    unfold memWrite
    split
    · split
      · exact h
      · simp only [memWfFrom, Bool.and_eq_true, decide_eq_true_eq]
        exact ⟨⟨⟨hlo, hhi⟩, ‹_›⟩, ⟨⟨by omega, h2⟩, h3⟩, h4⟩
    · split
      · split
        · exact memWfFrom_mono h4 (by omega)
        · simp only [memWfFrom, Bool.and_eq_true, decide_eq_true_eq]
          exact ⟨⟨⟨hlo, hhi⟩, ‹_›⟩, memWfFrom_mono h4 (by omega)⟩
      · simp only [memWfFrom, Bool.and_eq_true, decide_eq_true_eq]
        exact ⟨⟨⟨h1, h2⟩, h3⟩, ih h4 (by omega)⟩

/-- A write of a cell in use keeps the canonical form. -/
theorem memWf_write {len : Nat} {m : SampleMem} (h : memWf len m = true) {n : Nat} (hn : n < len) (v : F32) :
    memWf len (memWrite m n v) = true := memWfFrom_write h (Nat.zero_le n) hn v

/-- A read after a write gives the value written there, and elsewhere what it gave before. -/
theorem memRead_write_from {lo hi : Nat} {m : SampleMem} (h : memWfFrom lo hi m = true) (n k : Nat) (v : F32) :
    memRead (memWrite m n v) k = if k = n then v else memRead m k := by
  induction m generalizing lo with
  | nil =>
    by_cases hv : v = unlistedSample
    · by_cases hk : k = n <;> simp [memWrite, hv, memRead, hk]
    · rw [memWrite, if_neg hv, memRead]
      by_cases hk : k = n
      · rw [if_pos hk]; simp [memRead, hk]
      · rw [if_neg hk]; simp [memRead, Ne.symm hk]
  | cons p rest ih =>
    obtain ⟨a, x⟩ := p
    simp only [memWfFrom, Bool.and_eq_true, decide_eq_true_eq] at h
    obtain ⟨⟨⟨h1, h2⟩, h3⟩, h4⟩ := h
    unfold memWrite
    split
    · have hlow : ∀ j, j ≤ n → memRead ((a, x) :: rest) j = unlistedSample := by
        intro j hj
        rw [memRead, if_neg (by omega), memRead_of_lt h4 (by omega)]
      split
      · by_cases hk : k = n
        · rw [if_pos hk, hlow k hk.le]; exact Eq.symm ‹_›
        · rw [if_neg hk]
      · rw [memRead]
        by_cases hk : k = n
        · rw [if_pos hk, if_pos hk.symm]
        · rw [if_neg hk, if_neg (Ne.symm hk)]
    · split
      · rename_i hna
        subst hna
        split
        · by_cases hk : k = n
          · rw [if_pos hk, hk, memRead_of_lt h4 (by omega)]; exact Eq.symm ‹_›
          · rw [if_neg hk, memRead, if_neg (Ne.symm hk)]
        · rw [memRead]
          by_cases hk : k = n
          · rw [if_pos hk, if_pos hk.symm]
          · rw [if_neg hk, if_neg (Ne.symm hk), memRead, if_neg (Ne.symm hk)]
      · rw [memRead, memRead]
        by_cases hka : a = k
        · rw [if_pos hka, if_pos hka, if_neg (by omega)]
        · rw [if_neg hka, if_neg hka, ih h4]

theorem memRead_write {len : Nat} {m : SampleMem} (h : memWf len m = true) (n k : Nat) (v : F32) :
    memRead (memWrite m n v) k = if k = n then v else memRead m k := memRead_write_from h n k v

/-- A read that is defined gives the sample; it is defined exactly on a configured line, inside its length (rule R54). -/
theorem DelayLine.read_eq_some {d : DelayLine} {n : Nat} {v : F32} :
    d.read n = some v ↔ (d.configured = true ∧ n < d.len) ∧ v = memRead d.buf n := by
  unfold DelayLine.read
  by_cases h : (d.configured && decide (n < d.len)) = true
  · rw [if_pos h]
    simp only [Bool.and_eq_true, decide_eq_true_eq] at h
    simp [h, eq_comm]
  · rw [if_neg h]
    simp only [Bool.and_eq_true, decide_eq_true_eq] at h
    simp [h]

/-- A write that is defined replaces one sample; it is defined exactly on a configured line, inside its length (rule R54). -/
theorem DelayLine.write_eq_some {d d' : DelayLine} {n : Nat} {v : F32} :
    d.write n v = some d' ↔ (d.configured = true ∧ n < d.len) ∧ d' = { d with buf := memWrite d.buf n v } := by
  unfold DelayLine.write
  by_cases h : (d.configured && decide (n < d.len)) = true
  · rw [if_pos h]
    simp only [Bool.and_eq_true, decide_eq_true_eq] at h
    simp [h, eq_comm]
  · rw [if_neg h]
    simp only [Bool.and_eq_true, decide_eq_true_eq] at h
    simp [h]

end Sys2Proof.Machine
end

