-- ==== Sys2Proof/Laws/Invariant.lean ====
section
/-! SUPPORT. What a command can do to a unit keeps the invariant of that unit. -/

namespace Sys2Proof.Machine

theorem Biquad.inv_of_step {b b' : Biquad} (h : b.inv = true) (hs : BqStep b b') : b'.inv = true := by
  rcases hs with ⟨c, rfl⟩ | ⟨hw, x, rfl⟩ | rfl <;>
    simp_all [Biquad.inv, Biquad.load, Biquad.shift, Biquad.output, Biquad.zeroHistory]
  exact h.1.1.imp id fun h => by rw [h]; rfl

theorem Follower.inv_of_step {e e' : Follower} (h : e.inv = true) (hs : EfStep e e') : e'.inv = true := by
  rcases hs with ⟨am, rm, sr, rfl⟩ | ⟨hw, x, rfl⟩ | rfl <;>
    simp_all [Follower.inv, efSettimes, efProcess, Follower.level, efReset]
  exact h.1.imp id fun h => by rw [h]; rfl

/-- Rule R35 with the canonical form of the memory, of a configured line. -/
theorem DelayLine.inv_iff {m : Nat} {d : DelayLine} (hc : d.configured = true) :
    DelayLine.inv m d = true ↔ 1 ≤ d.len ∧ d.len ≤ m ∧ d.wpos < d.len ∧ memWf d.len d.buf = true := by
  unfold DelayLine.inv
  rw [if_pos hc, Bool.and_eq_true, Bool.and_eq_true, Bool.and_eq_true]
  simp only [decide_eq_true_eq, and_assoc]

theorem DelayLine.inv_of_step {m : Nat} {d d' : DelayLine} (h : DelayLine.inv m d = true) (hs : DlStep m d d') :
    DelayLine.inv m d' = true := by
  have hconf : ∀ e n r, 1 ≤ n → n ≤ m → DelayLine.inv m (DelayLine.configure e n r) = true :=
    fun e n r h1 h2 => (DelayLine.inv_iff rfl).2 ⟨h1, h2, h1, rfl⟩
  rcases hs with ⟨n, r, h1, h2, rfl⟩ | ⟨hw, i, n, r, h1, h2, rfl⟩ | ⟨hw, hl, v, rfl⟩ | ⟨hw, rfl⟩
  · exact hconf _ _ _ h1 h2
  · unfold DelayLine.setRate DelayLine.chooseUnchanged
    split
    · dsimp only
      split
      · exact (DelayLine.inv_iff (by exact hw)).2 ((DelayLine.inv_iff hw).1 h)
      · exact hconf _ _ _ h1 h2
    · exact hconf _ _ _ h1 h2
  · obtain ⟨h1, h2, -, h4⟩ := (DelayLine.inv_iff hw).1 h
    exact (DelayLine.inv_iff (by exact hw)).2 ⟨h1, h2, Nat.mod_lt _ h1, memWf_write h4 hl v⟩
  · obtain ⟨h1, h2, -, -⟩ := (DelayLine.inv_iff hw).1 h
    exact (DelayLine.inv_iff (by exact hw)).2 ⟨h1, h2, h1, rfl⟩

end Sys2Proof.Machine
end

