-- ==== Sys2Proof/Laws/PerInstr.lean ====
section
/-! SUPPORT. Statements made for every instruction, one lemma per constructor. -/

namespace Sys2Proof.Laws

/-- The encoding of the instruction has the reserved field zero (rules R71, R80). -/
def ReservedZero.Statement (i : Instr) : Prop := rsvdField (encode i).cw = 0

theorem ReservedZero.coefDeriveLpf (f q g sr : F32) : ReservedZero.Statement (.coefDeriveLpf f q g sr) := rsvdField_commandWord _ _ _
theorem ReservedZero.coefDeriveHpf (f q g sr : F32) : ReservedZero.Statement (.coefDeriveHpf f q g sr) := rsvdField_commandWord _ _ _
theorem ReservedZero.coefDeriveBpfPeakq (f q g sr : F32) : ReservedZero.Statement (.coefDeriveBpfPeakq f q g sr) := rsvdField_commandWord _ _ _
theorem ReservedZero.coefDeriveBpf0db (f q g sr : F32) : ReservedZero.Statement (.coefDeriveBpf0db f q g sr) := rsvdField_commandWord _ _ _
theorem ReservedZero.coefDeriveNotch (f q g sr : F32) : ReservedZero.Statement (.coefDeriveNotch f q g sr) := rsvdField_commandWord _ _ _
theorem ReservedZero.coefDeriveApf (f q g sr : F32) : ReservedZero.Statement (.coefDeriveApf f q g sr) := rsvdField_commandWord _ _ _
theorem ReservedZero.coefDeriveLp1 (f q g sr : F32) : ReservedZero.Statement (.coefDeriveLp1 f q g sr) := rsvdField_commandWord _ _ _
theorem ReservedZero.coefDeriveHp1 (f q g sr : F32) : ReservedZero.Statement (.coefDeriveHp1 f q g sr) := rsvdField_commandWord _ _ _
theorem ReservedZero.coefDerivePeak (f q g sr : F32) : ReservedZero.Statement (.coefDerivePeak f q g sr) := rsvdField_commandWord _ _ _
theorem ReservedZero.coefDeriveLshelf (f q g sr : F32) : ReservedZero.Statement (.coefDeriveLshelf f q g sr) := rsvdField_commandWord _ _ _
theorem ReservedZero.coefDeriveHshelf (f q g sr : F32) : ReservedZero.Statement (.coefDeriveHshelf f q g sr) := rsvdField_commandWord _ _ _
theorem ReservedZero.coefDeriveTilt (f q g sr : F32) : ReservedZero.Statement (.coefDeriveTilt f q g sr) := rsvdField_commandWord _ _ _
theorem ReservedZero.coefDeriveLrLp (f q g sr : F32) : ReservedZero.Statement (.coefDeriveLrLp f q g sr) := rsvdField_commandWord _ _ _
theorem ReservedZero.coefDeriveLrHp (f q g sr : F32) : ReservedZero.Statement (.coefDeriveLrHp f q g sr) := rsvdField_commandWord _ _ _
theorem ReservedZero.coefDeriveBwLp (f q g sr : F32) : ReservedZero.Statement (.coefDeriveBwLp f q g sr) := rsvdField_commandWord _ _ _
theorem ReservedZero.coefDeriveBwHp (f q g sr : F32) : ReservedZero.Statement (.coefDeriveBwHp f q g sr) := rsvdField_commandWord _ _ _
theorem ReservedZero.coefDeriveWarmth (f q g sr : F32) : ReservedZero.Statement (.coefDeriveWarmth f q g sr) := rsvdField_commandWord _ _ _
theorem ReservedZero.coefDeriveBright (f q g sr : F32) : ReservedZero.Statement (.coefDeriveBright f q g sr) := rsvdField_commandWord _ _ _
theorem ReservedZero.coefDerivePresence (f q g sr : F32) : ReservedZero.Statement (.coefDerivePresence f q g sr) := rsvdField_commandWord _ _ _
theorem ReservedZero.coefDeriveAir (f q g sr : F32) : ReservedZero.Statement (.coefDeriveAir f q g sr) := rsvdField_commandWord _ _ _
theorem ReservedZero.coefDeriveSubbass (f q g sr : F32) : ReservedZero.Statement (.coefDeriveSubbass f q g sr) := rsvdField_commandWord _ _ _
theorem ReservedZero.coefDeriveVocal (f q g sr : F32) : ReservedZero.Statement (.coefDeriveVocal f q g sr) := rsvdField_commandWord _ _ _
theorem ReservedZero.coefDeriveDcblock (f q g sr : F32) : ReservedZero.Statement (.coefDeriveDcblock f q g sr) := rsvdField_commandWord _ _ _
theorem ReservedZero.coefDeriveUnity (f q g sr : F32) : ReservedZero.Statement (.coefDeriveUnity f q g sr) := rsvdField_commandWord _ _ _
theorem ReservedZero.bqUpdateLpf (n : BitVec 8) (f q g sr : F32) : ReservedZero.Statement (.bqUpdateLpf n f q g sr) := rsvdField_commandWord _ _ _
theorem ReservedZero.bqUpdateHpf (n : BitVec 8) (f q g sr : F32) : ReservedZero.Statement (.bqUpdateHpf n f q g sr) := rsvdField_commandWord _ _ _
theorem ReservedZero.bqUpdateBpfPeakq (n : BitVec 8) (f q g sr : F32) : ReservedZero.Statement (.bqUpdateBpfPeakq n f q g sr) := rsvdField_commandWord _ _ _
theorem ReservedZero.bqUpdateBpf0db (n : BitVec 8) (f q g sr : F32) : ReservedZero.Statement (.bqUpdateBpf0db n f q g sr) := rsvdField_commandWord _ _ _
theorem ReservedZero.bqUpdateNotch (n : BitVec 8) (f q g sr : F32) : ReservedZero.Statement (.bqUpdateNotch n f q g sr) := rsvdField_commandWord _ _ _
theorem ReservedZero.bqUpdateApf (n : BitVec 8) (f q g sr : F32) : ReservedZero.Statement (.bqUpdateApf n f q g sr) := rsvdField_commandWord _ _ _
theorem ReservedZero.bqUpdateLp1 (n : BitVec 8) (f q g sr : F32) : ReservedZero.Statement (.bqUpdateLp1 n f q g sr) := rsvdField_commandWord _ _ _
theorem ReservedZero.bqUpdateHp1 (n : BitVec 8) (f q g sr : F32) : ReservedZero.Statement (.bqUpdateHp1 n f q g sr) := rsvdField_commandWord _ _ _
theorem ReservedZero.bqUpdatePeak (n : BitVec 8) (f q g sr : F32) : ReservedZero.Statement (.bqUpdatePeak n f q g sr) := rsvdField_commandWord _ _ _
theorem ReservedZero.bqUpdateLshelf (n : BitVec 8) (f q g sr : F32) : ReservedZero.Statement (.bqUpdateLshelf n f q g sr) := rsvdField_commandWord _ _ _
theorem ReservedZero.bqUpdateHshelf (n : BitVec 8) (f q g sr : F32) : ReservedZero.Statement (.bqUpdateHshelf n f q g sr) := rsvdField_commandWord _ _ _
theorem ReservedZero.bqUpdateTilt (n : BitVec 8) (f q g sr : F32) : ReservedZero.Statement (.bqUpdateTilt n f q g sr) := rsvdField_commandWord _ _ _
theorem ReservedZero.bqUpdateLrLp (n : BitVec 8) (f q g sr : F32) : ReservedZero.Statement (.bqUpdateLrLp n f q g sr) := rsvdField_commandWord _ _ _
theorem ReservedZero.bqUpdateLrHp (n : BitVec 8) (f q g sr : F32) : ReservedZero.Statement (.bqUpdateLrHp n f q g sr) := rsvdField_commandWord _ _ _
theorem ReservedZero.bqUpdateBwLp (n : BitVec 8) (f q g sr : F32) : ReservedZero.Statement (.bqUpdateBwLp n f q g sr) := rsvdField_commandWord _ _ _
theorem ReservedZero.bqUpdateBwHp (n : BitVec 8) (f q g sr : F32) : ReservedZero.Statement (.bqUpdateBwHp n f q g sr) := rsvdField_commandWord _ _ _
theorem ReservedZero.bqUpdateWarmth (n : BitVec 8) (f q g sr : F32) : ReservedZero.Statement (.bqUpdateWarmth n f q g sr) := rsvdField_commandWord _ _ _
theorem ReservedZero.bqUpdateBright (n : BitVec 8) (f q g sr : F32) : ReservedZero.Statement (.bqUpdateBright n f q g sr) := rsvdField_commandWord _ _ _
theorem ReservedZero.bqUpdatePresence (n : BitVec 8) (f q g sr : F32) : ReservedZero.Statement (.bqUpdatePresence n f q g sr) := rsvdField_commandWord _ _ _
theorem ReservedZero.bqUpdateAir (n : BitVec 8) (f q g sr : F32) : ReservedZero.Statement (.bqUpdateAir n f q g sr) := rsvdField_commandWord _ _ _
theorem ReservedZero.bqUpdateSubbass (n : BitVec 8) (f q g sr : F32) : ReservedZero.Statement (.bqUpdateSubbass n f q g sr) := rsvdField_commandWord _ _ _
theorem ReservedZero.bqUpdateVocal (n : BitVec 8) (f q g sr : F32) : ReservedZero.Statement (.bqUpdateVocal n f q g sr) := rsvdField_commandWord _ _ _
theorem ReservedZero.bqUpdateDcblock (n : BitVec 8) (f q g sr : F32) : ReservedZero.Statement (.bqUpdateDcblock n f q g sr) := rsvdField_commandWord _ _ _
theorem ReservedZero.bqUpdateUnity (n : BitVec 8) (f q g sr : F32) : ReservedZero.Statement (.bqUpdateUnity n f q g sr) := rsvdField_commandWord _ _ _
theorem ReservedZero.bqSetcoef (n : BitVec 8) (a b c d e : F32) : ReservedZero.Statement (.bqSetcoef n a b c d e) := rsvdField_commandWord _ _ _
theorem ReservedZero.bqProcess (n : BitVec 8) (a : F32) : ReservedZero.Statement (.bqProcess n a) := rsvdField_commandWord _ _ _
theorem ReservedZero.bqReset (n : BitVec 8) : ReservedZero.Statement (.bqReset n) := rsvdField_commandWord _ _ _
theorem ReservedZero.envSettimes (n : BitVec 8) (a b c : F32) : ReservedZero.Statement (.envSettimes n a b c) := rsvdField_commandWord _ _ _
theorem ReservedZero.envProcess (n : BitVec 8) (a : F32) : ReservedZero.Statement (.envProcess n a) := rsvdField_commandWord _ _ _
theorem ReservedZero.envReset (n : BitVec 8) : ReservedZero.Statement (.envReset n) := rsvdField_commandWord _ _ _
theorem ReservedZero.compSettimes (n : BitVec 8) (a b c : F32) : ReservedZero.Statement (.compSettimes n a b c) := rsvdField_commandWord _ _ _
theorem ReservedZero.compProcess (n : BitVec 8) (a b c d e : F32) : ReservedZero.Statement (.compProcess n a b c d e) := rsvdField_commandWord _ _ _
theorem ReservedZero.compReset (n : BitVec 8) : ReservedZero.Statement (.compReset n) := rsvdField_commandWord _ _ _
theorem ReservedZero.dlConstruct (n : BitVec 8) (a b : F32) : ReservedZero.Statement (.dlConstruct n a b) := rsvdField_commandWord _ _ _
theorem ReservedZero.dlSetrate (n : BitVec 8) (a b : F32) : ReservedZero.Statement (.dlSetrate n a b) := rsvdField_commandWord _ _ _
theorem ReservedZero.dlProcess (n : BitVec 8) (a b c : F32) : ReservedZero.Statement (.dlProcess n a b c) := rsvdField_commandWord _ _ _
theorem ReservedZero.dlReset (n : BitVec 8) : ReservedZero.Statement (.dlReset n) := rsvdField_commandWord _ _ _

end Sys2Proof.Laws
end

