-- ==== Sys2Proof/Tests/Slice0.lean ====
section
/-! SUPPORT. Tests of the model, one small step or one operation each, their expected results taken from spec/95_test_vectors.md
(the part is named) and from the worked examples of the rules; the smoke test of WellFormed; and for every statement with
hypotheses a concrete state and operands that meet them. -/

namespace Sys2Proof.Tests

-- One theorem after the other: many kernel evaluations waiting for one another would each hold a thread.
set_option Elab.async false

open Sys2Proof.Machine

/-! ### Helpers -/

/-- The next state of an outcome, if it is one. -/
def nextOf (r : Result) : Option State :=
  match r with
  | .next s => some s
  | .fault _ => none
  | .refused _ => none

/-- The refusal of an outcome, if it is one. -/
def refusalOf (r : Result) : Option Refusal :=
  match r with
  | .next _ => none
  | .fault _ => none
  | .refused x => some x

/-- The response of the state an outcome leads to. -/
def responseOf (r : Result) : Option Response := (nextOf r).bind (·.response)

/-- The instruction the decoder accepts, if it does. -/
def accepted (c : Command) : Option Instr :=
  match decode c with
  | .ok i => some i
  | .error _ => none

/-- Why the decoder refuses a command word. -/
def whyIllegal (cw : BitVec 32) : Option DecodeError :=
  match decode ⟨cw, 0x3F800000, 0, 0x7FC00000, 0, 0⟩ with
  | .ok _ => none
  | .error e => some e

theorem next_of_isSome {r : Result} (h : (nextOf r).isSome = true) : ∃ t, r = .next t := by
  cases r with
  | next s => exact ⟨s, rfl⟩
  | fault _ => cases h
  | refused _ => cases h

theorem decode_of_accepted {c : Command} {i : Instr} (h : accepted c = some i) : decode c = .ok i := by
  unfold accepted at h
  split at h
  · rename_i j hj; cases h; exact hj
  · cases h

theorem error_of_why {cw : BitVec 32} {e : DecodeError} (h : whyIllegal cw = some e) :
    decode ⟨cw, 0x3F800000, 0, 0x7FC00000, 0, 0⟩ = .error e := by
  unfold whyIllegal at h
  split at h
  · cases h
  · rename_i j hj; cases h; exact hj

/-- Coefficients of UNITY. -/
def unityCoefs : Coefs := ⟨0x3F800000, 0, 0, 0, 0⟩

/-- A stage with UNITY coefficients and the history 3.0, 2.0, 1.0, 0.5. -/
def demoBq : Biquad := ⟨0x40400000, 0x40000000, 0x3F800000, 0x3F000000, unityCoefs, true⟩

/-- A follower with the coefficients of Part 5's first sequence, after its first command. -/
def demoEf : Follower := ⟨0x3B086400, 0x3F7F779C, 0x3F7FF259, true⟩

/-- A line of four samples at 1000 Hz, its cursor at the last cell. -/
def demoDl : DelayLine := ⟨true, 4, 0x447A0000, 3, [(0, 0x3F800000), (2, 0x3F000000)], 0⟩

/-- A machine with one instance of each unit in use and one as power-on left it. -/
def demo : State where
  bq := [demoBq, Biquad.powerOn]
  ef := [demoEf, Follower.powerOn]
  comp := [⟨demoEf⟩, Compressor.powerOn]
  dl := [demoDl, DelayLine.powerOn]
  params := defaultParams
  port := []
  response := none

/-- A NaN with a payload. -/
def someNaN : F32 := 0x7FC12345

/-- The machine with a NaN in the last output, in both envelopes and in the delay memory. -/
def demoNaN : State where
  bq := [{ demoBq with y1 := someNaN }, { demoBq with x1 := someNaN }]
  ef := [{ demoEf with env := someNaN }]
  comp := [⟨{ demoEf with env := someNaN }⟩, ⟨demoEf⟩]
  dl := [{ demoDl with buf := [(0, someNaN)] }]
  params := defaultParams
  port := []
  response := none

/-- The numerics of Part 0's table, for the calls the tests below make; +0.0 elsewhere. -/
def tableNum : Numerics where
  fsin := fun x => if x = 0x3E060A92 then 0x3E05A8A9 else if x = 0x3B2B92A7 then 0x3B2B929A else 0
  fcos := fun x => if x = 0x3E060A92 then 0x3F7DCF55 else if x = 0x3B2B92A7 then 0x3F7FFFC7 else 0
  ftan := fun x => if x = 0x3E060A92 then 0x3E06CFEA else if x = 0x3D860A92 then 0x3D863BA7 else 0
  fexp := fun x =>
    if x = 0xBB088888 then 0x3F7F779C else if x = 0xB95A740E then 0x3F7FF259 else if x = 0xBF800000 then 0x3EBC5AB2 else 0
  flog10 := fun x => if x = 0x3F21D2A7 then 0xBE4BFB1C else if x = 0x3DEFA7FF then 0xBF6E8698 else 0
  fpow10 := fun x =>
    if x = 0x3E19999A then 0x3FB4CE08 else if x = 0x3D99999A then 0x3F9820D7 else if x = 0x3E99999A then 0x3FFF64C2
    else if x = 0xBF19C0EB then 0x3E806E59 else if x = 0xBD73E69E then 0x3F5F3328 else if x = 0 then 0x3F800000 else 0

/-- The candidate `TILT_RAW` of rule R147 (not normative), used to test what stands around it. -/
def candidateTilt (a : TiltArgs) : RawCoefs :=
  let k := tableNum.ftan (fdiv a.w0 litTwo)
  ⟨fadd a.sqrtAt (fdiv k a.sqrtAt), fsub (fdiv k a.sqrtAt) a.sqrtAt, litZero, fadd litOne k, fsub k litOne, litZero⟩

/-! ### WellFormed (rule R77) -/

theorem test_wellformed_last_legal_numbers :
    [Instr.bqUpdateTilt 1 0 0 0 0, .bqSetcoef 1 0 0 0 0 0, .bqProcess 1 0, .bqReset 1, .envSettimes 0 0 0 0, .envProcess 0 0,
      .envReset 0, .compSettimes 0 0 0 0, .compProcess 0 0 0 0 0 0, .compReset 0, .dlConstruct 1 0 0, .dlSetrate 1 0 0,
      .dlProcess 1 0 0 0, .dlReset 1, .coefDeriveLpf 0 0 0 0].all (Instr.wellFormed ⟨2, 1, 1, 2⟩) = true := by decide

theorem test_wellformed_refuses_bq : [Instr.bqSetcoef 2 0 0 0 0 0, .bqProcess 2 0, .bqReset 2].any
    (Instr.wellFormed ⟨2, 1, 1, 2⟩) = false := by decide

theorem test_wellformed_refuses_bq_update :
    [Instr.bqUpdateLpf 2 0 0 0 0, .bqUpdateHpf 2 0 0 0 0, .bqUpdateBpfPeakq 2 0 0 0 0, .bqUpdateBpf0db 2 0 0 0 0,
      .bqUpdateNotch 2 0 0 0 0, .bqUpdateApf 2 0 0 0 0, .bqUpdateLp1 2 0 0 0 0, .bqUpdateHp1 2 0 0 0 0,
      .bqUpdatePeak 2 0 0 0 0, .bqUpdateLshelf 2 0 0 0 0, .bqUpdateHshelf 2 0 0 0 0, .bqUpdateTilt 2 0 0 0 0,
      .bqUpdateLrLp 2 0 0 0 0, .bqUpdateLrHp 2 0 0 0 0, .bqUpdateBwLp 2 0 0 0 0, .bqUpdateBwHp 2 0 0 0 0,
      .bqUpdateWarmth 2 0 0 0 0, .bqUpdateBright 2 0 0 0 0, .bqUpdatePresence 2 0 0 0 0, .bqUpdateAir 2 0 0 0 0,
      .bqUpdateSubbass 2 0 0 0 0, .bqUpdateVocal 2 0 0 0 0, .bqUpdateDcblock 2 0 0 0 0, .bqUpdateUnity 255 0 0 0 0].any
    (Instr.wellFormed ⟨2, 1, 1, 2⟩) = false := by decide

theorem test_wellformed_refuses_ef : [Instr.envSettimes 1 0 0 0, .envProcess 1 0, .envReset 1].any
    (Instr.wellFormed ⟨2, 1, 1, 2⟩) = false := by decide

theorem test_wellformed_refuses_comp : [Instr.compSettimes 1 0 0 0, .compProcess 1 0 0 0 0 0, .compReset 1].any
    (Instr.wellFormed ⟨2, 1, 1, 2⟩) = false := by decide

theorem test_wellformed_refuses_dl : [Instr.dlConstruct 2 0 0, .dlSetrate 2 0 0, .dlProcess 2 0 0 0, .dlReset 2].any
    (Instr.wellFormed ⟨2, 1, 1, 2⟩) = false := by decide

/-! ### Decoding: Part 2's words, every constructor, the lanes 1, 2, 3, 4, 5 -/

/-- A command with the lanes 1, 2, 3, 4, 5. -/
def lanesOf (cw : BitVec 32) : Command := ⟨cw, 1, 2, 3, 4, 5⟩

theorem test_decode_coef_derive_basic :
    accepted (lanesOf 0x10000000) = some (.coefDeriveLpf 1 2 3 4) ∧
    accepted (lanesOf 0x10000001) = some (.coefDeriveHpf 1 2 3 4) ∧
    accepted (lanesOf 0x10000002) = some (.coefDeriveBpfPeakq 1 2 3 4) ∧
    accepted (lanesOf 0x10000003) = some (.coefDeriveBpf0db 1 2 3 4) ∧
    accepted (lanesOf 0x10000004) = some (.coefDeriveNotch 1 2 3 4) ∧
    accepted (lanesOf 0x10000005) = some (.coefDeriveApf 1 2 3 4) ∧
    accepted (lanesOf 0x10000006) = some (.coefDeriveLp1 1 2 3 4) ∧
    accepted (lanesOf 0x10000007) = some (.coefDeriveHp1 1 2 3 4) ∧
    accepted (lanesOf 0x10000008) = some (.coefDerivePeak 1 2 3 4) ∧
    accepted (lanesOf 0x10000009) = some (.coefDeriveLshelf 1 2 3 4) ∧
    accepted (lanesOf 0x1000000A) = some (.coefDeriveHshelf 1 2 3 4) ∧
    accepted (lanesOf 0x1000000B) = some (.coefDeriveTilt 1 2 3 4) := by
  decide +kernel

theorem test_decode_coef_derive_fixed_and_character :
    accepted (lanesOf 0x1000000C) = some (.coefDeriveLrLp 1 2 3 4) ∧
    accepted (lanesOf 0x1000000D) = some (.coefDeriveLrHp 1 2 3 4) ∧
    accepted (lanesOf 0x1000000E) = some (.coefDeriveBwLp 1 2 3 4) ∧
    accepted (lanesOf 0x1000000F) = some (.coefDeriveBwHp 1 2 3 4) ∧
    accepted (lanesOf 0x10000010) = some (.coefDeriveWarmth 1 2 3 4) ∧
    accepted (lanesOf 0x10000011) = some (.coefDeriveBright 1 2 3 4) ∧
    accepted (lanesOf 0x10000012) = some (.coefDerivePresence 1 2 3 4) ∧
    accepted (lanesOf 0x10000013) = some (.coefDeriveAir 1 2 3 4) ∧
    accepted (lanesOf 0x10000014) = some (.coefDeriveSubbass 1 2 3 4) ∧
    accepted (lanesOf 0x10000015) = some (.coefDeriveVocal 1 2 3 4) ∧
    accepted (lanesOf 0x10000016) = some (.coefDeriveDcblock 1 2 3 4) ∧
    accepted (lanesOf 0x10000017) = some (.coefDeriveUnity 1 2 3 4) := by
  decide +kernel

theorem test_decode_bq_update_basic :
    accepted (lanesOf 0x11010000) = some (.bqUpdateLpf 1 1 2 3 4) ∧
    accepted (lanesOf 0x11010001) = some (.bqUpdateHpf 1 1 2 3 4) ∧
    accepted (lanesOf 0x11010002) = some (.bqUpdateBpfPeakq 1 1 2 3 4) ∧
    accepted (lanesOf 0x11010003) = some (.bqUpdateBpf0db 1 1 2 3 4) ∧
    accepted (lanesOf 0x11010004) = some (.bqUpdateNotch 1 1 2 3 4) ∧
    accepted (lanesOf 0x11010005) = some (.bqUpdateApf 1 1 2 3 4) ∧
    accepted (lanesOf 0x11010006) = some (.bqUpdateLp1 1 1 2 3 4) ∧
    accepted (lanesOf 0x11010007) = some (.bqUpdateHp1 1 1 2 3 4) ∧
    accepted (lanesOf 0x11010008) = some (.bqUpdatePeak 1 1 2 3 4) ∧
    accepted (lanesOf 0x11010009) = some (.bqUpdateLshelf 1 1 2 3 4) ∧
    accepted (lanesOf 0x1101000A) = some (.bqUpdateHshelf 1 1 2 3 4) ∧
    accepted (lanesOf 0x1101000B) = some (.bqUpdateTilt 1 1 2 3 4) := by
  decide +kernel

theorem test_decode_bq_update_fixed_and_character :
    accepted (lanesOf 0x11FF000C) = some (.bqUpdateLrLp 255 1 2 3 4) ∧
    accepted (lanesOf 0x11FF000D) = some (.bqUpdateLrHp 255 1 2 3 4) ∧
    accepted (lanesOf 0x11FF000E) = some (.bqUpdateBwLp 255 1 2 3 4) ∧
    accepted (lanesOf 0x11FF000F) = some (.bqUpdateBwHp 255 1 2 3 4) ∧
    accepted (lanesOf 0x11FF0010) = some (.bqUpdateWarmth 255 1 2 3 4) ∧
    accepted (lanesOf 0x11FF0011) = some (.bqUpdateBright 255 1 2 3 4) ∧
    accepted (lanesOf 0x11FF0012) = some (.bqUpdatePresence 255 1 2 3 4) ∧
    accepted (lanesOf 0x11FF0013) = some (.bqUpdateAir 255 1 2 3 4) ∧
    accepted (lanesOf 0x11FF0014) = some (.bqUpdateSubbass 255 1 2 3 4) ∧
    accepted (lanesOf 0x11FF0015) = some (.bqUpdateVocal 255 1 2 3 4) ∧
    accepted (lanesOf 0x11FF0016) = some (.bqUpdateDcblock 255 1 2 3 4) ∧
    accepted (lanesOf 0x11FF0017) = some (.bqUpdateUnity 255 1 2 3 4) := by
  decide +kernel

theorem test_decode_biquad :
    accepted (lanesOf 0x12010000) = some (.bqSetcoef 1 1 2 3 4 5) ∧
    accepted (lanesOf 0x13000000) = some (.bqProcess 0 1) ∧
    accepted (lanesOf 0x13010000) = some (.bqProcess 1 1) ∧
    accepted (lanesOf 0x14010000) = some (.bqReset 1) := by
  decide +kernel

theorem test_decode_envelope :
    accepted (lanesOf 0x20000000) = some (.envSettimes 0 1 2 3) ∧
    accepted (lanesOf 0x21000000) = some (.envProcess 0 1) ∧
    accepted (lanesOf 0x22000000) = some (.envReset 0) := by
  decide +kernel

theorem test_decode_compressor :
    accepted (lanesOf 0x30000000) = some (.compSettimes 0 1 2 3) ∧
    accepted (lanesOf 0x31000000) = some (.compProcess 0 1 2 3 4 5) ∧
    accepted (lanesOf 0x32000000) = some (.compReset 0) := by
  decide +kernel

theorem test_decode_delay :
    accepted (lanesOf 0x40000000) = some (.dlConstruct 0 1 2) ∧
    accepted (lanesOf 0x41010000) = some (.dlSetrate 1 1 2) ∧
    accepted (lanesOf 0x42010000) = some (.dlProcess 1 1 2 3) ∧
    accepted (lanesOf 0x43000000) = some (.dlReset 0) := by
  decide +kernel

theorem test_illegal_opcode_bytes :
    whyIllegal 0x00000000 = some .unknownOpcode ∧
    whyIllegal 0x15000000 = some .unknownOpcode ∧
    whyIllegal 0x23000000 = some .unknownOpcode ∧
    whyIllegal 0x33000000 = some .unknownOpcode ∧
    whyIllegal 0x44000000 = some .unknownOpcode ∧
    whyIllegal 0x50000000 = some .unknownOpcode ∧
    whyIllegal 0xFF000000 = some .unknownOpcode := by
  decide +kernel

theorem test_illegal_fields :
    whyIllegal 0x10000018 = some .ftypeOutOfRange ∧
    whyIllegal 0x110000FF = some .ftypeOutOfRange ∧
    whyIllegal 0x10010000 = some .instNotZero ∧
    whyIllegal 0x13000001 = some .ftypeNotZero ∧
    whyIllegal 0x13000100 = some .reservedNotZero ∧
    whyIllegal 0x1100FF00 = some .reservedNotZero := by
  decide +kernel

theorem test_illegal_instance_numbers :
    [0x13020000, 0x21010000, 0x31010000, 0x42020000].all
      (fun cw => refusalOf (step (State.reset.issue (lanesOf cw))) = some .illegalCommand) = true := by decide +kernel

theorem test_table_word_layout :
    decodeTableWord 192 (0x13010000 + 0x3F800000 * 2 ^ 32) = some (.bqProcess 1 0x3F800000) ∧
    decodeTableWord 192 (0x31000000 + 1 * 2 ^ 32 + 2 * 2 ^ 64 + 3 * 2 ^ 96 + 4 * 2 ^ 128 + 5 * 2 ^ 160) =
      some (.compProcess 0 1 2 3 4 5) ∧
    decodeTableWord 32 0x43010000 = some (.dlReset 1) ∧ decodeTableWord 32 0x43010001 = none := by decide +kernel

theorem test_fetch_runs_the_word :
    responseOf (step (State.reset.withFetchWord 32 0x14000000)) = some .empty ∧
    (nextOf (step (State.reset.withFetchWord 32 0x14000000))).map (·.port) = some [] := by decide +kernel

/-! ### Reset (rules R6, R290; program P4) -/

theorem test_reset_counts : State.reset.counts = ⟨2, 1, 1, 2⟩ ∧ State.reset.params.dlMaxLen = 262144 ∧
    State.reset.params.dcblockFreqHz = 0x41A00000 ∧ State.reset.params.charShelfSide = ⟨.low, .high, .high, .low⟩ := by decide

theorem test_reset_refuses_what_is_unwritten :
    refusalOf (exec (.bqProcess 0 0x3F800000) State.reset) = some .unwrittenCoefficients ∧
    refusalOf (exec (.envProcess 0 0x3F800000) State.reset) = some .unwrittenCoefficients ∧
    refusalOf (exec (.compProcess 0 0 0 0 0 0) State.reset) = some .unwrittenCoefficients ∧
    refusalOf (exec (.dlProcess 0 0 0 0) State.reset) = some .unconfigured ∧
    refusalOf (exec (.dlReset 0) State.reset) = some .unconfigured ∧
    refusalOf (exec (.dlSetrate 1 0x473B8000 0x41200000) State.reset) = some .unconfigured := by decide +kernel

theorem test_idle_step_changes_nothing : nextOf (step demo) = some demo := by decide +kernel

/-! ### Numerics (Part 0; rules R101 to R114) -/

theorem test_add_rounds_to_even : fadd 0x3F800000 0x33800000 = 0x3F800000 ∧ fadd 0x3F800001 0x33800000 = 0x3F800002 ∧
    fadd 0x3F800000 0xBF800000 = 0 ∧ fadd 0x80000000 0x80000000 = 0x80000000 ∧ fadd 0x7F7FFFFF 0x7F7FFFFF = 0x7F800000 := by
  decide +kernel

theorem test_sub_exact : fsub 0x3F800000 0x3F7DCF55 = 0x3C0C2AC0 ∧ fsub 0x00000003 0x00000005 = 0x80000002 := by decide +kernel

theorem test_mul_of_the_spec : fmul 0x3EFF7CEE 0x473B8000 = 0x46BB2000 ∧ fmul 0x3EFF7CEE 0x472C4400 = 0x46ABEBCD ∧
    fmul (fmul 0x41200000 lit0p001) 0x473B8000 = 0x43F00001 ∧ fmul 0x00000001 0x3F000000 = 0 ∧
    fmul 0x00000003 0x3F000000 = 2 := by decide +kernel

theorem test_div_of_the_spec : fdiv 0x3F800000 0x43F00001 = 0x3B088888 ∧ fdiv 0x40C00000 0x42200000 = 0x3E19999A ∧
    fdiv 0x41200000 0 = 0x7F800000 ∧ fdiv 0xC1200000 0x7F800000 = 0x80000000 := by decide +kernel

theorem test_sqrt_of_the_spec : fsqrt 0x3FB4CE08 = 0x3F9820D7 ∧ fsqrt 0x3F004DCE = 0x3F353BEF ∧ fsqrt 0x3F9820D7 = 0x3F8B8B2A ∧
    fsqrt 0x80000000 = 0x80000000 := by decide +kernel

theorem test_invalid_operations_give_a_nan : isNaN (fdiv 0 0) = true ∧ isNaN (fsqrt 0xBF800000) = true ∧
    isNaN (fmul 0 0x7F800000) = true ∧ isNaN (fsub 0x7F800000 0x7F800000) = true ∧ isNaN (fadd someNaN 0) = true :=
  ⟨isNaN_nanOf .div 0 0, isNaN_nanOf .sqrt 0xBF800000 0xBF800000, isNaN_nanOf .mul 0 0x7F800000,
    isNaN_nanOf .sub 0x7F800000 0x7F800000, isNaN_nanOf .add someNaN 0⟩

theorem test_floor_and_ceiling : ffloor 0xBFC00000 = 0xC0000000 ∧ fceil 0xBFC00000 = 0xBF800000 ∧ ffloor 0x40533333 = 0x40400000 ∧
    fceil 0x42844CCD = 0x42860000 ∧ f2n 0x42860000 = 67 ∧ f2n 0xC3700000 = 0 ∧ f2n 0x7F800000 = 4294967295 := by decide +kernel

theorem test_maximum_takes_the_number : fmax someNaN 0x3F800000 = 0x3F800000 ∧ fmin 0x3F800000 someNaN = 0x3F800000 ∧
    fmax 0xBF800000 0x3F000000 = 0x3F000000 ∧ fmin 0xBF800000 0x3F000000 = 0xBF800000 := by decide +kernel

/-! ### The coefficient engine (Part 3) -/

theorem test_frequency_clamp : [0, 0xC0A00000, 0x3F000000, 0x3F800000, 0x7FC00000, 0xFF800000].all
      (fun f => clampf f 0x473B8000 = 0x3F800000) = true ∧
    [0x46EA6000, 0x46BB8000, 0x46BB2000, 0x7F800000].all (fun f => clampf f 0x473B8000 = 0x46BB2000) = true ∧
    omega 0x447A0000 0x473B8000 = 0x3E060A92 := by decide +kernel

/-- The five values of a type on the operands of set S1. -/
def s1 (t : FilterType) : Coefs := derive defaultParams tableNum candidateTilt t 0x447A0000 0x3F3504F3 0x40C00000 0x473B8000

theorem test_derive_basic_types :
    s1 .lpf = ⟨0x3B8052C2, 0x3C0052C2, 0x3B8052C2, 0xBFE85D18, 0x3F54BCC8⟩ ∧
    s1 .hpf = ⟨0x3F695DBD, 0xBFE95DBD, 0x3F695DBD, 0xBFE85D18, 0x3F54BCC8⟩ ∧
    s1 .bpfPeakq = ⟨0x3DAD0CDF, 0x00000000, 0xBDAD0CDF, 0xBFE85D18, 0x3F54BCC8⟩ ∧
    s1 .bpf0db = ⟨0x3D74BAE5, 0x00000000, 0xBD74BAE5, 0xBFE85D18, 0x3F54BCC8⟩ ∧
    s1 .notch = ⟨0x3F6A5E63, 0xBFE85D18, 0x3F6A5E63, 0xBFE85D18, 0x3F54BCC8⟩ ∧
    s1 .apf = ⟨0x3F54BCC8, 0xBFE85D18, 0x3F800000, 0xBFE85D18, 0x3F54BCC8⟩ := by
  decide +kernel

theorem test_derive_one_pole_peak_and_shelf_types :
    s1 .lp1 = ⟨0x3D7CF8DC, 0x3D7CF8DC, 0x00000000, 0xBF6060E4, 0x00000000⟩ ∧
    s1 .hp1 = ⟨0x3F703072, 0xBF703072, 0x00000000, 0xBF6060E4, 0x00000000⟩ ∧
    s1 .peak = ⟨0x3F87D03E, 0xBFEE3E33, 0x3F50F87C, 0xBFEE3E33, 0x3F6098F6⟩ ∧
    s1 .lshelf = ⟨0x3F842B02, 0xBFEB5FAA, 0x3F5428CF, 0xBFEC172A, 0x3F5B0FD1⟩ ∧
    s1 .hshelf = ⟨0x3FF756F0, 0xC0641A87, 0x3FD3A6A8, 0xBFE3F377, 0x3F4D7805⟩ := by
  decide +kernel

theorem test_derive_fixed_q_types :
    s1 .lrLp = ⟨0x3B77F7BC, 0x3BF7F7BC, 0x3B77F7BC, 0xBFE08188, 0x3F44E2EF⟩ ∧
    s1 .lrHp = ⟨0x3F61797F, 0xBFE1797F, 0x3F61797F, 0xBFE08188, 0x3F44E2EF⟩ ∧
    s1 .bwLp = ⟨0x3B8052C2, 0x3C0052C2, 0x3B8052C2, 0xBFE85D18, 0x3F54BCC8⟩ ∧
    s1 .bwHp = ⟨0x3F695DBD, 0xBFE95DBD, 0x3F695DBD, 0xBFE85D18, 0x3F54BCC8⟩ ∧
    s1 .dcblock = ⟨0x3F7F86C7, 0xBFFF86C7, 0x3F7F86C7, 0xBFFF86AB, 0x3F7F0DC6⟩ ∧
    s1 .unity = ⟨0x3F800000, 0x00000000, 0x00000000, 0x00000000, 0x00000000⟩ := by
  decide +kernel

theorem test_derive_character_types :
    s1 .warmth = ⟨0x3F84C952, 0xBFE86185, 0x3F4CDD2E, 0xBFE916B0, 0x3F55057C⟩ ∧
    s1 .bright = ⟨0x3FF745E4, 0xC063E013, 0x3FD34217, 0xBFE3B90E, 0x3F4D01C4⟩ ∧
    s1 .presence = ⟨0x3F83CE85, 0xBFF639C8, 0x3F69165A, 0xBFF639C8, 0x3F70B363⟩ ∧
    s1 .air = ⟨0x3FF4B9FA, 0xC05B251A, 0x3FC43CC9, 0xBFDAFF94, 0x3F3B5844⟩ ∧
    s1 .subbass = ⟨0x3F83C1D2, 0xBFED5CB5, 0x3F5901B0, 0xBFEE15C2, 0x3F5F133C⟩ ∧
    s1 .vocal = ⟨0x3F82E064, 0xBFF81435, 0x3F6EAFA8, 0xBFF81435, 0x3F74706E⟩ := by
  decide +kernel

theorem test_derive_tilt_around_the_candidate :
    s1 .tilt = ⟨0x3FAF41D9, 0xBFA41BF3, 0x00000000, 0xBF608188, 0x00000000⟩ := by
  decide +kernel

theorem test_derive_other_readings :
    derive { defaultParams with bpfGainAssignment := .asNamed } tableNum candidateTilt .bpf0db
      0x447A0000 0x3F3504F3 0x40C00000 0x473B8000 = ⟨0x3DAD0CDF, 0, 0xBDAD0CDF, 0xBFE85D18, 0x3F54BCC8⟩ ∧
    derive { defaultParams with onepoleKReading := .halfAngle } tableNum candidateTilt .lp1
      0x447A0000 0 0 0x473B8000 = ⟨0x3D7BF3C5, 0x3D7BF3C5, 0, 0xBF608188, 0⟩ ∧
    derive { defaultParams with onepoleKReading := .halfAngle } tableNum candidateTilt .hp1
      0x447A0000 0 0 0x473B8000 = ⟨0x3F7040C5, 0xBF7040C5, 0, 0xBF608188, 0⟩ := by decide +kernel

theorem test_derive_character_gain_floor : [0xC1400000, 0, 0x40400000, 0x7FC00000].all (fun g =>
    derive defaultParams tableNum candidateTilt .warmth 0x447A0000 someNaN g 0x473B8000 =
      ⟨0x3F825CFC, 0xBFE6BD06, 0x3F4D7C9D, 0xBFE7158D, 0x3F518588⟩) = true := by decide +kernel

theorem test_coef_derive_answers_and_stores_nothing :
    nextOf (exec (.coefDeriveUnity 1 2 3 4) demo) = some { demo with response := some (.coefs unityCoefs) } := by decide +kernel

theorem test_bq_update_writes_one_stage :
    nextOf (exec (.bqUpdateUnity 1 someNaN 0 0 0) demo) =
      some { demo with bq := [demoBq, ⟨0, 0, 0, 0, unityCoefs, true⟩], response := some .empty } := by decide +kernel

/-! ### The biquad stage (Part 4) -/

theorem test_bq_setcoef_keeps_the_history :
    (nextOf (exec (.bqSetcoef 0 1 2 3 4 5) demo)).map (·.bq) =
      some [{ demoBq with coef := ⟨1, 2, 3, 4, 5⟩ }, Biquad.powerOn] := by decide +kernel

/-- Part 4's FIR smoother before its fourth command. -/
def firStage : Biquad := ⟨0x40400000, 0x40000000, 0x40000000, 0x3F800000, ⟨0x3E800000, 0x3F000000, 0x3E800000, 0, 0⟩, true⟩

theorem test_bq_process_smoother :
    let s := { demo with bq := [firStage] }
    responseOf (exec (.bqProcess 0 0x40800000) s) = some (.value 0x40400000) ∧
    (nextOf (exec (.bqProcess 0 0x40800000) s)).map (·.bq) =
      some [{ firStage with x1 := 0x40800000, x2 := 0x40400000, y1 := 0x40400000, y2 := 0x40000000 }] := by decide +kernel

/-- Part 4's double real pole before its fourth command: 0.75 and 1.0 were its last outputs. -/
def poleStage : Biquad := ⟨0, 0, 0x3F400000, 0x3F800000, ⟨0x3F800000, 0, 0, 0xBF800000, 0x3E800000⟩, true⟩

theorem test_bq_process_feedback_and_flush : poleStage.output 0 = 0x3F000000 ∧
    (Biquad.mk 0 0 0 0 unityCoefs true).output 0x2D2FEBFF = 0x2D2FEBFF ∧
    (Biquad.mk 0 0 0 0 unityCoefs true).output 0x2D2FEBFE = 0 ∧
    (Biquad.mk 0 0 0 0 unityCoefs true).output 0xAD2FEBFE = 0 ∧
    (Biquad.mk 0 0 0 0 unityCoefs true).output 0xAD2FEBFF = 0xAD2FEBFF ∧
    (Biquad.mk 0 0 0 0 unityCoefs true).output 0x80000000 = 0 ∧
    (Biquad.mk 0 0 0 0 unityCoefs true).output 0x7F800000 = 0x7F800000 := by decide +kernel

theorem test_bq_reset_keeps_the_coefficients :
    (nextOf (exec (.bqReset 0) demo)).map (·.bq) = some [⟨0, 0, 0, 0, unityCoefs, true⟩, Biquad.powerOn] := by decide +kernel

/-! ### The envelope follower (Part 5) -/

theorem test_env_settimes_coefficients :
    efSettimes tableNum demoEf 0x41200000 0x42C80000 0x473B8000 = demoEf ∧ timeCoeff tableNum 0x3F800000 0x447A0000 = 0x3EBC5AB2 := by
  decide +kernel

theorem test_env_process_attack_and_release :
    responseOf (exec (.envProcess 0 0x3F800000) demo) = some (.value 0x3B883F80) ∧
    ({ demoEf with env := 0x3B883F80 } : Follower).level 0 = 0x3B88383C ∧
    ({ demoEf with env := 0x3B8830F8 } : Follower).level 0xBF000000 = 0x3BAA0180 := by decide +kernel

/-- Part 5's corner cases: both coefficients 0x3EBC5AB2, the envelope given. -/
def cornerEf (env : F32) : Follower := ⟨env, 0x3EBC5AB2, 0x3EBC5AB2, true⟩

theorem test_env_process_corner_cases : (cornerEf 0).level 0x80000000 = 0 ∧ (cornerEf 0).level 0x26901D7D = 0 ∧
    (cornerEf 0x3F000000).level 0x3F000000 = 0x3F000000 ∧ (cornerEf 0x27800000).level 0 = 0x26BC5AB2 ∧
    (cornerEf 0x27000000).level 0 = 0 := by decide +kernel

theorem test_env_reset_keeps_the_coefficients :
    (nextOf (exec (.envReset 0) demo)).map (·.ef) = some [{ demoEf with env := 0 }, Follower.powerOn] := by decide +kernel

/-! ### The compressor (Part 6, program P3) -/

theorem test_gain_computer_soft_and_hard :
    gainReduction 0xC1900000 0xC1A00000 0x40800000 0x40C00000 = 0xBFC80000 ∧
    gainReduction 0xC1B40000 0xC1A00000 0x40800000 0x40C00000 = 0xBC800000 ∧
    gainReduction 0xC1980000 0xC1A00000 0x40000000 0x40000000 = 0xBF000000 ∧
    gainReduction 0xC1200000 0xC1A00000 0x41000000 0x41400000 = 0xC10C0000 ∧
    gainReduction 0xC2C80000 0xC2F00000 0x40800000 0 = 0xC1700000 := by decide +kernel

theorem test_gain_computer_corner_cases :
    gainReduction 0xC1200000 0xC1A00000 0x3F000000 0 = 0x41200000 ∧
    gainReduction 0xC1200000 0xC1A00000 0x7F800000 0 = 0xC1200000 ∧
    gainReduction 0xC1200000 0xC1A00000 0 0 = 0x7F800000 ∧
    gainReduction 0xC1B00000 0xC1A00000 0x40800000 0xC0C00000 = 0x3FC00000 ∧
    gainReduction 0xC1200000 0xC1A00000 0x3F800000 0 = 0 := by decide +kernel

theorem test_comp_gain_of_p3 : gainFor tableNum 0x3F21D2A7 0xC1A00000 0x40800000 0x40C00000 = 0x3E806E59 ∧
    gainFor tableNum 0x3DEFA7FF 0xC1A00000 0x40800000 0x40C00000 = 0x3F5F3328 ∧
    linToDb tableNum 0x2EDBE6FF = 0xC2C80000 ∧ detect 0x3F000000 0xBF800000 = 0x3F800000 ∧
    detect someNaN 0x3F800000 = 0x3F800000 := by decide +kernel

theorem test_comp_process_envelope_of_p3 :
    let s := { demo with comp := [⟨cornerEf 0x3F21D2A7⟩] }
    (nextOf (exec (.compProcess 0 0x3F800000 0xBF000000 0xC1A00000 0x40800000 0x40C00000) s)).map (·.comp) =
      some [⟨cornerEf 0x3F5D5AAA⟩] := by decide +kernel

theorem test_comp_settimes_touches_its_own_follower :
    (nextOf (exec (.compSettimes 0 0x3F800000 0x3F800000 0x447A0000) demo)).map (fun t => (t.ef, t.comp.map (·.ef.env))) =
      some (demo.ef, [0x3B086400, 0]) := by decide +kernel

theorem test_comp_reset_zeroes_the_envelope :
    (nextOf (exec (.compReset 0) demo)).map (·.comp) = some [⟨{ demoEf with env := 0 }⟩, Compressor.powerOn] := by decide +kernel

/-! ### The delay line (Part 7) -/

theorem test_dl_length : [((0x41200000 : F32), (0x447A0000 : F32), 11), (0x3FC00000, 0x472C4400, 68), (0x3DCCCCCD, 0x473B8000, 6),
      (0x45AAA800, 0x473B8000, 262129), (0x45AAB000, 0x473B8000, 262177), (0, 0x473B8000, 1), (0xC0A00000, 0x473B8000, 1),
      (0x7F61B1E6, 0x473B8000, 4294967296)].all
    (fun v => dlLength v.1 v.2.1 = v.2.2) = true := by decide +kernel

theorem test_delay_samples : [((0x41200000 : F32), (0x447A0000 : F32), 11, 10), (0x3DCCCCCD, 0x473B8000, 481, 4),
      (0x40200000, 0x447A0000, 11, 2), (0x42C60000, 0x447A0000, 4, 3), (0xBF800000, 0x447A0000, 4, 0),
      (0x3F7FBE77, 0x447A0000, 11, 0), (0x7F800000, 0x447A0000, 4, 3), (0x40000000, 0, 4, 0)].all
    (fun v => delaySamples v.1 v.2.1 v.2.2.1 = v.2.2.2) = true := by decide +kernel

theorem test_dl_construct : (nextOf (exec (.dlConstruct 1 0x40400000 0x447A0000) demo)).map (·.dl) =
      some [demoDl, ⟨true, 4, 0x447A0000, 0, [], 0⟩] ∧
    refusalOf (exec (.dlConstruct 0 0x461C4000 0x473B8000) State.reset) = some .overCapacity := by decide +kernel

/-- Part 7's start for `DL_SETRATE`: three 1.0 written to a line of eleven samples. -/
def elevenLine : DelayLine := ⟨true, 11, 0x447A0000, 3, [(0, 0x3F800000), (1, 0x3F800000), (2, 0x3F800000)], 0⟩

theorem test_dl_setrate_on_change :
    let s := { demo with dl := [elevenLine] }
    (nextOf (exec (.dlSetrate 0 0x44FA0000 0x41200000) s)).map (·.dl) = some [⟨true, 21, 0x44FA0000, 0, [], 0⟩] ∧
    (nextOf (exec (.dlSetrate 0 0x447A0000 0x41280000) s)).map (·.dl) = some [⟨true, 12, 0x447A0000, 0, [], 0⟩] ∧
    refusalOf (exec (.dlSetrate 0 0x473B8000 0x461C4000) s) = some .overCapacity := by decide +kernel

/-- The line program P2 has before its sixth command. -/
def echoLine : DelayLine := ⟨true, 4, 0x447A0000, 0, [(0, 0x3F800000), (2, 0x3F000000)], 0⟩

theorem test_dl_process_of_p2 :
    let s := { demo with dl := [echoLine] }
    responseOf (exec (.dlProcess 0 0 0x40000000 0x3F000000) s) = some (.value 0x3F000000) ∧
    (nextOf (exec (.dlProcess 0 0 0x40000000 0x3F000000) s)).map (·.dl) =
      some [{ echoLine with buf := [(0, 0x3E800000), (2, 0x3F000000)], wpos := 1 }] := by decide +kernel

theorem test_dl_process_negative_zero_and_wrap :
    let s := { demo with dl := [{ demoDl with buf := [(0, 0x3F800000), (3, 0x3F000000)] }] }
    responseOf (exec (.dlProcess 0 0x80000000 0x40400000 0) s) = some (.value 0x3F800000) ∧
    (nextOf (exec (.dlProcess 0 0x80000000 0x40400000 0) s)).map (·.dl) =
      some [{ demoDl with buf := [(0, 0x3F800000)], wpos := 0 }] := by decide +kernel

theorem test_dl_reset_keeps_length_and_rate :
    (nextOf (exec (.dlReset 0) demo)).map (·.dl) = some [⟨true, 4, 0x447A0000, 0, [], 0⟩, DelayLine.powerOn] := by decide +kernel

theorem test_memory_stays_canonical : memWrite [(0, 1), (2, 3)] 1 7 = [(0, 1), (1, 7), (2, 3)] ∧
    memWrite [(0, 1), (2, 3)] 2 0 = [(0, 1)] ∧ memWrite [] 5 0 = [] ∧ memRead [(0, 1), (2, 3)] 1 = 0 ∧
    memWf 2 [(0, 1), (2, 3)] = false ∧ memWf 3 [(2, 1), (0, 3)] = false ∧ memWf 3 [(0, 0)] = false := by decide

/-! ### Witnesses: for each statement with hypotheses, concrete values that meet them, at the bounds of each clause -/

theorem test_witness_EncodeOfDecode : decode ⟨0x13FF0000, 0x3F800000, 7, 8, 9, 10⟩ = .ok (.bqProcess 255 0x3F800000) ∧
    operandLanes (.bqProcess 255 0x3F800000) = 1 ∧
    laneOf ⟨0x13FF0000, 0x3F800000, 0, 0, 0, someNaN⟩ 0 = laneOf ⟨0x13FF0000, 0x3F800000, 7, 8, 9, 10⟩ 0 ∧
    decode ⟨0x31000000, 1, 2, 3, 4, 5⟩ = .ok (.compProcess 0 1 2 3 4 5) ∧ operandLanes (.compProcess 0 1 2 3 4 5) = 5 :=
  ⟨decode_of_accepted (by decide +kernel), rfl, rfl, decode_of_accepted (by decide +kernel), rfl⟩

theorem test_witness_IllegalCommandWords :
    [0x0F000000, 0x15000000, 0x13000100, 0x1300FF00, 0x13000001, 0x10000018, 0x110000FF, 0x10010000, 0x11020000, 0x14020000,
      0x21010000, 0x32010000, 0x40020000, 0x43FF0000].all
      (fun cw => refusalOf (step (State.reset.issue (lanesOf cw))) = some .illegalCommand) = true ∧
    [0x10000017, 0x11010017, 0x14010000, 0x20000000, 0x32000000, 0x40010000].all
      (fun cw => refusalOf (step (demo.issue (lanesOf cw))) = none) = true := by decide +kernel

theorem test_witness_StepRunsTheDecodedInstruction :
    (demo.issue (lanesOf 0x14010000)).port = lanesOf 0x14010000 :: [] ∧ decode (lanesOf 0x14010000) = .ok (.bqReset 1) ∧
    decodeTableWord 32 0x43000000 = some (.dlReset 0) ∧ demo.port = [] :=
  ⟨rfl, decode_of_accepted (by decide +kernel), by decide +kernel, rfl⟩

theorem test_witness_PowerOnValues : State.reset.bq = [Biquad.powerOn, Biquad.powerOn] ∧ State.reset.ef = [Follower.powerOn] ∧
    State.reset.comp = [Compressor.powerOn] ∧ State.reset.dl = [DelayLine.powerOn, DelayLine.powerOn] ∧
    (State.powerOn ⟨1, 0, 1, 1⟩ defaultParams).ef = [] := by decide

theorem test_witness_PowerOnMeetsTheInvariant : Counts.inRange ⟨1, 0, 1, 1⟩ = true ∧ Counts.inRange ⟨256, 256, 256, 256⟩ = true ∧
    Params.inRange { defaultParams with dlMaxLen := 1 } = true ∧ Params.inRange { defaultParams with dlMaxLen := 2 ^ 24 } = true := by
  decide

theorem test_demo_meets_the_invariant : demo.inv = true := by decide +kernel

theorem test_witness_StepKeepsTheInvariant :
    (demo.issue (lanesOf 0x43000000)).inv = true ∧ ∃ t, step (demo.issue (lanesOf 0x43000000)) = .next t :=
  ⟨by decide +kernel, next_of_isSome (by decide +kernel)⟩

theorem test_witness_ConfiguredLinesStayInBounds :
    (∀ d ∈ demo.dl, d.configured = true → 1 ≤ d.len ∧ d.len ≤ demo.params.dlMaxLen ∧ d.wpos < d.len) ∧
    (∃ d ∈ demo.dl, d.configured = true ∧ d.wpos = d.len - 1) ∧ ∃ t, step (demo.issue (lanesOf 0x42000000)) = .next t :=
  ⟨by decide, by decide, next_of_isSome (by decide +kernel)⟩

theorem test_witness_NoFaultUnderTheInvariant : demo.inv = true := test_demo_meets_the_invariant

theorem test_witness_LegalCommandsComplete :
    [Instr.coefDeriveTilt 1 2 3 4, .bqUpdateApf 1 1 2 3 4, .bqSetcoef 1 1 2 3 4 5, .bqProcess 0 someNaN, .bqReset 1,
      .envSettimes 1 1 2 3, .envProcess 0 0, .envReset 1, .compSettimes 1 1 2 3, .compProcess 0 1 2 3 4 5, .compReset 1,
      .dlConstruct 1 0 0, .dlSetrate 0 0 0, .dlProcess 0 1 someNaN 3, .dlReset 0].all
      (fun i => i.wellFormed demo.counts && ready demo i) = true := by decide +kernel

theorem test_witness_RefusalsAreTheFour :
    decode ⟨0x44000000, 0x3F800000, 0, 0x7FC00000, 0, 0⟩ = .error .unknownOpcode ∧
    (Instr.bqProcess 2 0).wellFormed demo.counts = false ∧
    (Instr.bqProcess 1 0).wellFormed demo.counts = true ∧ demo.bq[1]? = some Biquad.powerOn ∧
    refusalOf (exec (.bqProcess 1 0) demo) = some .unwrittenCoefficients ∧
    refusalOf (exec (.envProcess 1 0) demo) = some .unwrittenCoefficients ∧
    refusalOf (exec (.compProcess 1 0 0 0 0 0) demo) = some .unwrittenCoefficients ∧
    refusalOf (exec (.dlProcess 1 0 0 0) demo) = some .unconfigured ∧
    refusalOf (exec (.dlReset 1) demo) = some .unconfigured ∧
    refusalOf (exec (.dlSetrate 1 0x473B8000 0x461C4000) demo) = some .unconfigured ∧
    refusalOf (exec (.dlSetrate 0 0x473B8000 0x461C4000) demo) = some .overCapacity ∧
    refusalOf (exec (.dlConstruct 1 0x461C4000 0x473B8000) demo) = some .overCapacity :=
  ⟨error_of_why (by decide +kernel), by decide, by decide, by decide, by decide +kernel, by decide +kernel, by decide +kernel,
    by decide +kernel, by decide +kernel, by decide +kernel, by decide +kernel, by decide +kernel⟩

theorem test_witness_OnlyTheNamedInstanceChanges : (∃ t, exec (.bqReset 0) demo = .next t) ∧ target (.bqReset 0) ≠ .bq 1 ∧
    (∃ t, exec (.envReset 0) demo = .next t) ∧ (∃ t, exec (.compReset 0) demo = .next t) ∧
    (∃ t, exec (.dlReset 0) demo = .next t) ∧ target (.dlReset 0) ≠ .dl 1 ∧ ∃ t, exec (.coefDeriveLpf 1 2 3 4) demo = .next t :=
  ⟨next_of_isSome (by decide +kernel), by decide, next_of_isSome (by decide +kernel), next_of_isSome (by decide +kernel),
    next_of_isSome (by decide +kernel), by decide, next_of_isSome (by decide +kernel)⟩

theorem test_witness_MarksAreNeverCleared :
    (∃ t, step (demo.issue (lanesOf 0x14000000)) = .next t) ∧ demo.bq[0]? = some demoBq ∧ demoBq.coefWritten = true ∧
    demo.ef[0]? = some demoEf ∧ demoEf.timesWritten = true ∧ demo.comp[0]? = some ⟨demoEf⟩ ∧
    demo.dl[0]? = some demoDl ∧ demoDl.configured = true :=
  ⟨next_of_isSome (by decide +kernel), by decide, by decide, by decide, by decide, by decide, by decide, by decide⟩

theorem test_witness_IndependentCommandsCommute :
    target (.bqProcess 0 0x3F800000) ≠ target (.dlProcess 0 1 2 3) ∧ target (.coefDeriveUnity 0 0 0 0) = .none ∧
    (∃ s1, exec (.bqProcess 0 0x3F800000) demo = .next s1 ∧ ∃ s12, exec (.dlReset 0) s1 = .next s12) ∧
    target (.bqProcess 0 0x3F800000) ≠ target (.bqSetcoef 1 0 0 0 0 0) :=
  ⟨by decide, by decide, ⟨_, rfl, next_of_isSome (by decide +kernel)⟩, by decide⟩

theorem test_witness_CommandsReadOnlyTheirInstance :
    let u := { demo with bq := [demoBq], ef := [], dl := [] }
    demo.params = u.params ∧ demo.bq[0]? = u.bq[0]? ∧ demo.comp[0]? = u.comp[0]? ∧
    (∃ t, exec (.bqProcess 0 0x3F800000) demo = .next t) ∧ ∃ t, exec (.compReset 0) demo = .next t :=
  ⟨rfl, rfl, rfl, next_of_isSome (by decide +kernel), next_of_isSome (by decide +kernel)⟩

theorem test_witness_BqUpdateStoresTheDerivation : demo.bq[(0 : BitVec 8).toNat]? = some demoBq ∧
    demo.bq[(1 : BitVec 8).toNat]? = some Biquad.powerOn := by decide

theorem test_witness_FrequencyClampBounds :
    isFinite 0x473B8000 = true ∧ fle litOne (fmul lit0p499 0x473B8000) = true ∧ isNaN someNaN = true ∧
    fle litOne (fmul lit0p499 0x400041AB) = true ∧ fle litOne (fmul lit0p499 0x400041AA) = false ∧
    isZero 0x80000000 = true := by decide +kernel

theorem test_witness_BasicTwoPoleTypes : defaultParams.bpfGainAssignment = .asWritten ∧
    { defaultParams with bpfGainAssignment := .asNamed }.bpfGainAssignment = .asNamed := by decide

theorem test_witness_OnePoleTypes :
    let w0 := (filterContext tableNum 0x447A0000 0x473B8000).w0
    (defaultParams.onepoleKReading = .asWritten ∧ 0x3D86CFEA = fdiv (tableNum.ftan w0) litTwo) ∧
    (OnepoleKReading.halfAngle = .halfAngle ∧ 0x3D863BA7 = tableNum.ftan (fdiv w0 litTwo)) := by decide +kernel

theorem test_witness_FixedQTypesAndDcBlock : isNaN (filterContext tableNum 0x447A0000 0x473B8000).sn = false := by decide +kernel

theorem test_witness_AllPassCoefficientsPair :
    let a0r := fadd litOne (alpha (filterContext tableNum 0x447A0000 0x473B8000) 0x3F3504F3)
    isFinite a0r = true ∧ isZero a0r = false := by decide +kernel

theorem test_witness_UnreadLanesHaveNoInfluence :
    FilterType.lp1 ∉ ([.lpf, .hpf, .bpfPeakq, .bpf0db, .notch, .apf, .peak, .lshelf, .hshelf, .tilt] : List FilterType) ∧
    FilterType.apf ∉
      ([.peak, .lshelf, .hshelf, .tilt, .warmth, .bright, .presence, .air, .subbass, .vocal] : List FilterType) ∧
    FilterType.dcblock ∈ ([.dcblock, .unity] : List FilterType) := by decide

theorem test_witness_CharacterGainFloor :
    FilterType.vocal ∈ ([.warmth, .bright, .presence, .air, .subbass, .vocal] : List FilterType) ∧ isNaN someNaN = true ∧
    fle 0x40400000 litThree = true ∧ fgt 0x40400001 litThree = true ∧ fle 0xFF800000 litThree = true := by decide +kernel

theorem test_witness_BqSetcoefStoresItsOperands : demo.bq[(0 : BitVec 8).toNat]? = some demoBq ∧
    demo.bq[(1 : BitVec 8).toNat]? = some Biquad.powerOn := by decide

theorem test_witness_BqProcessRunsTheRecurrence : demo.bq[(1 : BitVec 8).toNat]? = some Biquad.powerOn ∧
    Biquad.powerOn.coefWritten = false ∧ demo.bq[(0 : BitVec 8).toNat]? = some demoBq ∧ demoBq.coefWritten = true ∧
    demoNaN.bq[(1 : BitVec 8).toNat]? = some { demoBq with x1 := someNaN } ∧ isNaN someNaN = true := by decide

theorem test_witness_UnitResetsZeroTheSignalState : demo.bq[(1 : BitVec 8).toNat]? = some Biquad.powerOn ∧
    demo.ef[(1 : BitVec 8).toNat]? = some Follower.powerOn ∧ demo.comp[(1 : BitVec 8).toNat]? = some Compressor.powerOn ∧
    (∃ t, exec (.bqReset 0) demo = .next t) ∧ (∃ t, exec (.envReset 0) demo = .next t) ∧ ∃ t, exec (.compReset 0) demo = .next t :=
  ⟨by decide, by decide, by decide, next_of_isSome (by decide +kernel), next_of_isSome (by decide +kernel),
    next_of_isSome (by decide +kernel)⟩

theorem test_witness_UnityPassesThrough : demoBq.coef = ⟨litOne, litZero, litZero, litZero, litZero⟩ ∧
    isFinite demoBq.x1 = true ∧ isFinite demoBq.x2 = true ∧ isFinite demoBq.y1 = true ∧ isFinite demoBq.y2 = true ∧
    fge (fabs 0xAD2FEBFF) litBiquadFlush = true ∧ flt (fabs 0xAD2FEBFE) litBiquadFlush = true ∧ isFinite 0xAD2FEBFF = true := by
  decide +kernel

theorem test_witness_NaNSticks : demoNaN.bq[(0 : BitVec 8).toNat]? = some { demoBq with y1 := someNaN } ∧
    (∃ t, exec (.bqProcess 0 0x3F800000) demoNaN = .next t) ∧ (∃ t, exec (.bqProcess 0 someNaN) demo = .next t) ∧
    (∃ t, exec (.envProcess 0 0) demoNaN = .next t) ∧ (∃ t, exec (.compProcess 0 0 0 0 0 0) demoNaN = .next t) ∧
    (∃ t, exec (.compProcess 1 someNaN someNaN 0 0 0) demoNaN = .next t) ∧
    memWf 4 [(0, someNaN)] = true ∧
    ∃ t, exec (.dlProcess 0 0 0x40400000 0x3F000000) demoNaN = .next t ∧ t.response = some (.value someNaN) ∧ isNaN someNaN = true :=
  ⟨by decide, next_of_isSome (by decide +kernel), next_of_isSome (by decide +kernel), next_of_isSome (by decide +kernel),
    next_of_isSome (by decide +kernel), next_of_isSome (by decide +kernel), by decide,
    by
      obtain ⟨t, h⟩ := next_of_isSome (r := exec (.dlProcess 0 0 0x40400000 0x3F000000) demoNaN) (by decide +kernel)
      have h2 : responseOf (exec (.dlProcess 0 0 0x40400000 0x3F000000) demoNaN) = some (.value someNaN) := by decide +kernel
      rw [h] at h2
      exact ⟨t, h, h2, by decide⟩⟩

theorem test_witness_ResetInstanceBehavesAsFresh :
    (∃ t, exec (.bqReset 0) demo = .next t) ∧ (∃ t, exec (.envReset 0) demo = .next t) ∧
    (∃ t, exec (.compReset 0) demo = .next t) ∧ (∃ t, exec (.dlReset 0) demo = .next t) ∧
    let u := { demo with
      bq := [{ Biquad.powerOn with coef := unityCoefs, coefWritten := true }]
      ef := [{ demoEf with env := Follower.powerOn.env }]
      comp := [⟨{ demoEf with env := Compressor.powerOn.ef.env }⟩]
      dl := [{ DelayLine.powerOn.configure 4 0x447A0000 with choices := 0 }] }
    demo.params = u.params ∧
    u.bq[(0 : BitVec 8).toNat]? = some { Biquad.powerOn with coef := demoBq.coef, coefWritten := demoBq.coefWritten } ∧
    u.ef[(0 : BitVec 8).toNat]? = some { demoEf with env := Follower.powerOn.env } ∧
    demo.comp[(0 : BitVec 8).toNat]? = some ⟨demoEf⟩ ∧
    u.comp[(0 : BitVec 8).toNat]? = some ⟨{ demoEf with env := Compressor.powerOn.ef.env }⟩ ∧
    u.dl[(0 : BitVec 8).toNat]? = some { DelayLine.powerOn.configure demoDl.len demoDl.rate with choices := demoDl.choices } ∧
    (∀ j ∈ [Instr.bqProcess 0 0x3F800000, .bqReset 0, .bqUpdateLpf 0 1 2 3 4], target j = .bq (0 : BitVec 8).toNat) ∧
    (∀ j ∈ [Instr.envProcess 0 0x3F800000, .envReset 0], target j = .ef (0 : BitVec 8).toNat) ∧
    (∀ j ∈ [Instr.compProcess 0 1 2 3 4 5, .compReset 0], target j = .comp (0 : BitVec 8).toNat) ∧
    ∀ j ∈ [Instr.dlProcess 0 1 2 3, .dlSetrate 0 1 2], target j = .dl (0 : BitVec 8).toNat :=
  ⟨next_of_isSome (by decide +kernel), next_of_isSome (by decide +kernel), next_of_isSome (by decide +kernel),
    next_of_isSome (by decide +kernel), by decide +kernel⟩

theorem test_witness_SettimesComputesBothCoefficients : demo.ef[(1 : BitVec 8).toNat]? = some Follower.powerOn ∧
    demo.comp[(0 : BitVec 8).toNat]? = some ⟨demoEf⟩ := by decide

theorem test_witness_EnvProcessSmoothsTheRectifiedInput : demo.ef[(1 : BitVec 8).toNat]? = some Follower.powerOn ∧
    Follower.powerOn.timesWritten = false ∧ demo.ef[(0 : BitVec 8).toNat]? = some demoEf ∧ demoEf.timesWritten = true := by decide

theorem test_witness_CompProcessAnswersTheGain : demo.comp[(1 : BitVec 8).toNat]? = some Compressor.powerOn ∧
    Compressor.powerOn.ef.timesWritten = false ∧ demo.comp[(0 : BitVec 8).toNat]? = some ⟨demoEf⟩ ∧
    demoEf.timesWritten = true := by decide

theorem test_witness_HardKneeAndNaNOperands : isZero 0x80000000 = true ∧ isZero 0 = true ∧ isNaN someNaN = true := by decide

theorem test_witness_CompressorIsStereoLinked : ¬(isNaN someNaN = true ∧ isNaN 0x3F800000 = true) ∧
    ∃ t, exec (.compProcess 0 someNaN 0x3F800000 0xC1A00000 0x40800000 0) demo = .next t :=
  ⟨by decide, next_of_isSome (by decide +kernel)⟩

theorem test_witness_DlConstructZeroesTheLine : demo.dl[(0 : BitVec 8).toNat]? = some demoDl ∧
    262144 < f2n (fceil (fdiv (fmul 0x45AAB000 0x473B8000) lit1000)) + 1 ∧
    f2n (fceil (fdiv (fmul 0x45AAA800 0x473B8000) lit1000)) + 1 ≤ demo.params.dlMaxLen := by decide +kernel

theorem test_witness_DlSetrateReinitialisesOnChange : demo.dl[(1 : BitVec 8).toNat]? = some DelayLine.powerOn ∧
    DelayLine.powerOn.configured = false ∧ demo.dl[(0 : BitVec 8).toNat]? = some demoDl ∧ demoDl.configured = true ∧
    demo.params.dlMaxLen < dlLength 0x45AAB000 0x473B8000 ∧ dlLength 0x40400000 0x447A0000 = demoDl.len ∧
    0x447A0000 = demoDl.rate ∧ dlLength 0x40800000 0x447A0000 = 5 ∧ dlLength 0x40200000 0x447A0000 = demoDl.len := by decide +kernel

theorem test_witness_DlProcessReadsThenWrites : demo.dl[(1 : BitVec 8).toNat]? = some DelayLine.powerOn ∧
    DelayLine.powerOn.configured = false ∧ demo.dl[(0 : BitVec 8).toNat]? = some demoDl ∧ demoDl.configured = true ∧
    1 ≤ demoDl.len ∧ demoDl.wpos < demoDl.len := by decide

theorem test_witness_DlProcessWritesOneCell : demo.dl[(0 : BitVec 8).toNat]? = some demoDl ∧ memWf demoDl.len demoDl.buf = true ∧
    (∃ t, exec (.dlProcess 0 0x3F800000 0 0x3F000000) demo = .next t) ∧
    ∃ t, exec (.dlProcess 0 0 0x7F800000 0) demo = .next t :=
  ⟨by decide, by decide, next_of_isSome (by decide +kernel), next_of_isSome (by decide +kernel)⟩

theorem test_witness_DlResetZeroesBufferAndCursor : demo.dl[(1 : BitVec 8).toNat]? = some DelayLine.powerOn ∧
    DelayLine.powerOn.configured = false ∧ demo.dl[(0 : BitVec 8).toNat]? = some demoDl ∧ demoDl.configured = true := by decide

theorem test_witness_LengthAndDelayInSamples : fsign (fmul 0xBF800000 0x447A0000) = true ∧
    isNaN (fmul someNaN 0x447A0000) = true ∧ delaySamples 0x7F800000 0x447A0000 1 = 0 :=
  ⟨by decide +kernel, isNaN_fmul (.inl (by decide)), by decide +kernel⟩

theorem test_witness_ReadPositionAndCursor : readPos 0 4 3 = 1 ∧ readPos 3 4 0 = 3 ∧ readPos 3 4 3 = 0 ∧ nextPos 3 4 = 0 ∧
    readPos 0 1 0 = 0 ∧ nextPos 0 1 = 0 := by decide

theorem test_witness_DelayLineReturnsWhatWasWritten :
    let d : DelayLine := ⟨true, 4, 0x447A0000, 0, memZeroed, 0⟩
    { demo with dl := [d] }.dl[(0 : BitVec 8).toNat]? = some d ∧ d.configured = true ∧ 1 ≤ d.len ∧ d.wpos = 0 ∧
    d.buf = memZeroed := by decide

theorem test_witness_SpecialValues : isNaN someNaN = true ∧ isInf 0x7F800000 = true ∧ isInf 0xFF800000 = true ∧
    isZero 0x80000000 = true ∧ isFinite 0x00000001 = true ∧ isZero 0x00000001 = false := by decide

theorem test_witness_SumsAreCorrectlyRounded : isFinite 0x7F7FFFFF = true ∧ isFinite 0x80000001 = true ∧
    units 0x3F800000 + units 0xBF800000 = 0 ∧ units 0 = units 0x80000000 := by decide +kernel

theorem test_witness_ProductsAreCorrectlyRounded : isFinite 0x00000001 = true ∧ isFinite 0x7F7FFFFF = true := by decide

theorem test_witness_QuotientsAreCorrectlyRounded : isFinite 0xFF7FFFFF = true ∧ isFinite 0x00000001 = true ∧
    isZero 0x00000001 = false := by decide

theorem test_witness_RootsAreCorrectlyRounded : isNaN someNaN = true ∧ fsign 0xBF800000 = true ∧ isNaN 0xBF800000 = false ∧
    isZero 0x80000000 = true ∧ isInf 0x7F800000 = true ∧ isFinite 0x00000001 = true ∧ isZero 0x00000001 = false ∧ fsign 0x00000001 = false ∧
    fsqrt 0x00000001 = 0x1A3504F3 ∧ isFinite 0x1A3504F2 = true ∧ 0 ≤ units 0x1A3504F2 ∧
    units 0x1A3504F2 < units (fsqrt 0x00000001) := by decide +kernel

theorem test_witness_AbsoluteValueAndComparisons : flt 0x80000001 0 = true ∧ fle 0 0x80000000 = true ∧ flt 0x7F7FFFFF 0x7F800000 = true ∧
    flt someNaN 0 = false ∧ fle someNaN someNaN = false := by decide

theorem test_witness_MaximumAndMinimum : isNaN 0x7F800000 = false ∧ isNaN 0x7F800001 = true ∧ isNaN 0xFFFFFFFF = true := by decide

theorem test_witness_GuardAndDecibelHelpers : isNaN someNaN = true ∧ isInf 0xFF800000 = true ∧ isZero 0x80000000 = true ∧
    fgt 0x2EDBE700 litDbTest = true ∧ fgt 0x2EDBE6FF litDbTest = false := by decide

theorem test_witness_FloorAndCeiling : ffloor 0xBF000000 = 0xBF800000 ∧ units 0xBF800000 = (-1) * 2 ^ 149 ∧
    (-1) * 2 ^ 149 ≤ units 0xBF000000 ∧ units 0xBF000000 ≤ 0 * 2 ^ 149 ∧ isFinite 0xBF000000 = true ∧
    isInf 0xFF800000 = true := by decide +kernel

theorem test_witness_SaturatingConversion : fle 0x80000000 litZero = true ∧ fge 0x4F800000 0x4F800000 = true ∧
    fgt 0x00000001 litZero = true ∧ flt 0x4F7FFFFF 0x4F800000 = true ∧ f2n 0x4F7FFFFF = 4294967040 := by decide +kernel

end Sys2Proof.Tests
end

/-! ### Illegal commands (rules R77, R78): what each layer under `step` refuses as illegal -/

namespace Sys2Proof

@[simp] theorem Instr.wellFormed_coefDerive (n : Counts) (t : FilterType) (f q g sr : F32) :
    (Instr.coefDerive t f q g sr).wellFormed n = true := by cases t <;> rfl

@[simp] theorem Instr.wellFormed_bqUpdate (n : Counts) (t : FilterType) (i : BitVec 8) (f q g sr : F32) :
    (Instr.bqUpdate t i f q g sr).wellFormed n = decide (i.toNat < n.bq) := by cases t <;> rfl

/-- The type codes 24 to 255 are reserved, and no others (rule R76). -/
theorem FilterType.ofCode_eq_none_iff {code : BitVec 8} : FilterType.ofCode code = none ↔ 24 ≤ code.toNat := by
  revert code
  decide +kernel

end Sys2Proof

namespace Sys2Proof.Machine

/-- A command that no existing stage refuses as illegal is illegal exactly where the stage does not exist (rule R77). -/
theorem withBq_illegalCommand_iff {s : State} {i : BitVec 8} {k : Biquad → Result}
    (hk : ∀ b, k b ≠ .refused .illegalCommand) : withBq s i k = .refused .illegalCommand ↔ s.bq.length ≤ i.toNat := by
  refine ⟨fun h => ?_, fun h => withBq_of_ge h k⟩
  obtain ⟨hlen, -⟩ | ⟨b, -, hb⟩ := withBq_refused h
  · exact hlen
  · exact absurd hb (hk b)

/-- The same for the envelope followers. -/
theorem withEf_illegalCommand_iff {s : State} {i : BitVec 8} {k : Follower → Result}
    (hk : ∀ e, k e ≠ .refused .illegalCommand) : withEf s i k = .refused .illegalCommand ↔ s.ef.length ≤ i.toNat := by
  refine ⟨fun h => ?_, fun h => withEf_of_ge h k⟩
  obtain ⟨hlen, -⟩ | ⟨e, -, he⟩ := withEf_refused h
  · exact hlen
  · exact absurd he (hk e)

/-- The same for the compressors. -/
theorem withComp_illegalCommand_iff {s : State} {i : BitVec 8} {k : Compressor → Result}
    (hk : ∀ c, k c ≠ .refused .illegalCommand) : withComp s i k = .refused .illegalCommand ↔ s.comp.length ≤ i.toNat := by
  refine ⟨fun h => ?_, fun h => withComp_of_ge h k⟩
  obtain ⟨hlen, -⟩ | ⟨c, -, hc⟩ := withComp_refused h
  · exact hlen
  · exact absurd hc (hk c)

/-- The same for the delay lines. -/
theorem withDl_illegalCommand_iff {s : State} {i : BitVec 8} {k : DelayLine → Result}
    (hk : ∀ d, k d ≠ .refused .illegalCommand) : withDl s i k = .refused .illegalCommand ↔ s.dl.length ≤ i.toNat := by
  refine ⟨fun h => ?_, fun h => withDl_of_ge h k⟩
  obtain ⟨hlen, -⟩ | ⟨d, -, hd⟩ := withDl_refused h
  · exact hlen
  · exact absurd hd (hk d)

/-- `COEF_DERIVE` names no unit and always completes (rule R130). -/
theorem coefDerive_ne_refused (t : FilterType) (f q g sr : F32) (s : State) (r : Refusal) :
    coefDerive t f q g sr s ≠ .refused r := nofun

theorem bqUpdate_illegalCommand_iff {t : FilterType} {i : BitVec 8} {f q g sr : F32} {s : State} :
    bqUpdate t i f q g sr s = .refused .illegalCommand ↔ s.bq.length ≤ i.toNat :=
  withBq_illegalCommand_iff fun _ => nofun

theorem execBqProcess_illegalCommand_iff {i : BitVec 8} {x : F32} {s : State} :
    execBqProcess i x s = .refused .illegalCommand ↔ s.bq.length ≤ i.toNat :=
  withBq_illegalCommand_iff fun b => by split <;> exact nofun

theorem execEnvProcess_illegalCommand_iff {i : BitVec 8} {x : F32} {s : State} :
    execEnvProcess i x s = .refused .illegalCommand ↔ s.ef.length ≤ i.toNat :=
  withEf_illegalCommand_iff fun e => by split <;> exact nofun

theorem execCompProcess_illegalCommand_iff {i : BitVec 8} {l r thr ratio knee : F32} {s : State} :
    execCompProcess i l r thr ratio knee s = .refused .illegalCommand ↔ s.comp.length ≤ i.toNat :=
  withComp_illegalCommand_iff fun c => by split <;> exact nofun

theorem execDlConstruct_illegalCommand_iff {i : BitVec 8} {ms sr : F32} {s : State} :
    execDlConstruct i ms sr s = .refused .illegalCommand ↔ s.dl.length ≤ i.toNat :=
  withDl_illegalCommand_iff fun d => by split <;> exact nofun

theorem execDlSetrate_illegalCommand_iff {i : BitVec 8} {rate ms : F32} {s : State} :
    execDlSetrate i rate ms s = .refused .illegalCommand ↔ s.dl.length ≤ i.toNat := by
  refine withDl_illegalCommand_iff fun d => ?_
  split
  · exact nofun
  · split <;> exact nofun

theorem execDlProcess_illegalCommand_iff {i : BitVec 8} {x ms fb : F32} {s : State} :
    execDlProcess i x ms fb s = .refused .illegalCommand ↔ s.dl.length ≤ i.toNat := by
  refine withDl_illegalCommand_iff fun d => ?_
  split
  · exact nofun
  · split
    · exact nofun
    · split <;> exact nofun

theorem execDlReset_illegalCommand_iff {i : BitVec 8} {s : State} :
    execDlReset i s = .refused .illegalCommand ↔ s.dl.length ≤ i.toNat :=
  withDl_illegalCommand_iff fun d => by split <;> exact nofun

/-- The range check of `Instr.wellFormed` fails exactly where the numbered unit does not exist. -/
theorem decide_toNat_lt_eq_false_iff {i : BitVec 8} {len : Nat} : decide (i.toNat < len) = false ↔ len ≤ i.toNat := by simp

/-- Execution refuses an instruction as illegal exactly where the unit it names does not exist (rule R77). -/
theorem exec_illegalCommand_iff {i : Instr} {s : State} :
    exec i s = .refused .illegalCommand ↔ i.wellFormed s.counts = false := by
  cases i with
  | coefDeriveLpf | coefDeriveHpf | coefDeriveBpfPeakq | coefDeriveBpf0db | coefDeriveNotch | coefDeriveApf | coefDeriveLp1
  | coefDeriveHp1 | coefDerivePeak | coefDeriveLshelf | coefDeriveHshelf | coefDeriveTilt | coefDeriveLrLp | coefDeriveLrHp
  | coefDeriveBwLp | coefDeriveBwHp | coefDeriveWarmth | coefDeriveBright | coefDerivePresence | coefDeriveAir
  | coefDeriveSubbass | coefDeriveVocal | coefDeriveDcblock | coefDeriveUnity =>
    exact iff_of_false (coefDerive_ne_refused _ _ _ _ _ _ _) Bool.true_eq_false.mp
  | bqUpdateLpf | bqUpdateHpf | bqUpdateBpfPeakq | bqUpdateBpf0db | bqUpdateNotch | bqUpdateApf | bqUpdateLp1 | bqUpdateHp1
  | bqUpdatePeak | bqUpdateLshelf | bqUpdateHshelf | bqUpdateTilt | bqUpdateLrLp | bqUpdateLrHp | bqUpdateBwLp | bqUpdateBwHp
  | bqUpdateWarmth | bqUpdateBright | bqUpdatePresence | bqUpdateAir | bqUpdateSubbass | bqUpdateVocal | bqUpdateDcblock
  | bqUpdateUnity =>
    exact bqUpdate_illegalCommand_iff.trans decide_toNat_lt_eq_false_iff.symm
  | bqProcess => exact execBqProcess_illegalCommand_iff.trans decide_toNat_lt_eq_false_iff.symm
  | bqSetcoef | bqReset => exact (withBq_illegalCommand_iff fun _ => by nofun).trans decide_toNat_lt_eq_false_iff.symm
  | envProcess => exact execEnvProcess_illegalCommand_iff.trans decide_toNat_lt_eq_false_iff.symm
  | envSettimes | envReset => exact (withEf_illegalCommand_iff fun _ => by nofun).trans decide_toNat_lt_eq_false_iff.symm
  | compProcess => exact execCompProcess_illegalCommand_iff.trans decide_toNat_lt_eq_false_iff.symm
  | compSettimes | compReset => exact (withComp_illegalCommand_iff fun _ => by nofun).trans decide_toNat_lt_eq_false_iff.symm
  | dlConstruct => exact execDlConstruct_illegalCommand_iff.trans decide_toNat_lt_eq_false_iff.symm
  | dlSetrate => exact execDlSetrate_illegalCommand_iff.trans decide_toNat_lt_eq_false_iff.symm
  | dlProcess => exact execDlProcess_illegalCommand_iff.trans decide_toNat_lt_eq_false_iff.symm
  | dlReset => exact execDlReset_illegalCommand_iff.trans decide_toNat_lt_eq_false_iff.symm

/-- A step on a command put first on the port runs that command on the state as it was. -/
@[simp] theorem step_issue (s : State) (c : Command) : step (s.issue c) = runCommand c s := rfl

/-- A word the decoder rejects is an illegal command (rule R78). -/
theorem runCommand_of_error {c : Command} {s : State} {e : DecodeError} (h : decode c = .error e) :
    runCommand c s = .refused .illegalCommand := by simp only [runCommand, h]

theorem runCommand_of_ok {c : Command} {s : State} {i : Instr} (h : decode c = .ok i) : runCommand c s = exec i s := by
  simp only [runCommand, h]

/-- A command of format P is illegal for its type field or the unit it names (rules R77, R78). -/
theorem runCommand_plain_iff {c : Command} {s : State} {i : Instr} (h : decode c = decodePlain c i) :
    runCommand c s = .refused .illegalCommand ↔ (ftypeField c.cw).toNat ≠ 0 ∨ i.wellFormed s.counts = false := by
  unfold decodePlain at h
  by_cases hf : ftypeField c.cw = 0
  · rw [if_pos hf] at h
    rw [runCommand_of_ok h, exec_illegalCommand_iff]
    simp [hf]
  · rw [if_neg hf] at h
    have hf' : (ftypeField c.cw).toNat ≠ 0 := fun h0 => hf (BitVec.eq_of_toNat_eq h0)
    exact iff_of_true (runCommand_of_error h) (.inl hf')

/-- A command of format T is illegal for a reserved type code or the unit it names, in which the type has no part (rules R77,
R78). -/
theorem runCommand_typed_iff {c : Command} {s : State} {mk : FilterType → Instr} {legal : Bool}
    (h : decode c = decodeTyped c mk) (hmk : ∀ t, (mk t).wellFormed s.counts = legal) :
    runCommand c s = .refused .illegalCommand ↔ 24 ≤ (ftypeField c.cw).toNat ∨ legal = false := by
  rw [← FilterType.ofCode_eq_none_iff]
  unfold decodeTyped at h
  cases ht : FilterType.ofCode (ftypeField c.cw) with
  | none =>
    rw [ht] at h
    exact iff_of_true (runCommand_of_error h) (.inl rfl)
  | some t =>
    rw [ht] at h
    rw [runCommand_of_ok h, exec_illegalCommand_iff, hmk]
    simp

/-- Settles O4: the opcode byte fixes the format and the unit; then the type field or code and the unit number decide. -/
theorem illegalCommandWords : Obligations.IllegalCommandWords := by
  intro s c
  dsimp only
  rw [step_issue]
  by_cases hr : rsvdField c.cw = 0
  · have hd : decode c = decodeOpcode c := if_pos hr
    simp only [decodeOpcode] at hd
    split at hd
    case h_1 hop =>
      split at hd
      case isTrue hi =>
        rw [runCommand_typed_iff hd fun t => Instr.wellFormed_coefDerive _ t _ _ _ _]
        simp [hr, hop, hi]
      case isFalse hi =>
        have hi' : (instField c.cw).toNat ≠ 0 := fun h0 => hi (BitVec.eq_of_toNat_eq h0)
        simp [runCommand_of_error hd, hop, hi']
    case h_2 hop =>
      rw [runCommand_typed_iff hd fun t => Instr.wellFormed_bqUpdate _ t _ _ _ _ _, decide_toNat_lt_eq_false_iff]
      simp [hr, hop, State.counts]
    case h_16 =>
      -- The opcode byte is none of the fifteen.
      refine iff_of_true (runCommand_of_error hd) (.inl ?_)
      simp_all only [imp_false, List.mem_cons, List.not_mem_nil, or_false, not_false_eq_true]
    -- The thirteen opcodes of format P.
    all_goals
      rename_i hop
      simp only [runCommand_plain_iff hd, Instr.wellFormed, decide_toNat_lt_eq_false_iff]
      simp [hr, hop, State.counts]
  · have hd : decode c = .error .reservedNotZero := if_neg hr
    exact iff_of_true (runCommand_of_error hd) (.inr (.inl hr))

end Sys2Proof.Machine

/-! ### Values, zeros and representable magnitudes: facts for the numeric rules -/

namespace Sys2Proof.Machine

/-- An infinity is no NaN and no zero. -/
theorem not_isNaN_isZero_of_isInf {x : F32} (h : isInf x = true) : isNaN x = false ∧ isZero x = false := by
  simp only [isInf, isNaN, isZero, decide_eq_true_eq, decide_eq_false_iff_not] at *
  omega

theorem units_of_isZero {x : F32} (h : isZero x = true) : units x = 0 := units_eq_zero.2 (of_decide_eq_true h)

theorem isZero_eq_false_iff {x : F32} : isZero x = false ↔ magUnits x ≠ 0 := by
  rw [Ne, magUnits_eq_zero]
  simp [isZero]

theorem units_eq_of_nonneg {x : F32} (h : 0 ≤ units x) : units x = unitsOfMag (fmag x) := by
  rw [← abs_units, abs_of_nonneg h]

theorem fmag_lt_infMag {x : F32} : fmag x < infMag ↔ isFinite x = true := by simp [isFinite, infMag]

theorem unitsOfMag_infMag : unitsOfMag infMag = 2 ^ 24 * 2 ^ 253 := unitsOfMag_inf

/-- A finite magnitude lies below 2^128. -/
theorem magUnits_lt_of_isFinite {x : F32} (h : isFinite x = true) : magUnits x < 2 ^ 24 * 2 ^ 253 := by
  rw [magUnits_eq, ← unitsOfMag_infMag]
  exact unitsOfMag_strictMono (fmag_lt_infMag.2 h)

/-- A significand of at most 24 bits at any place is a magnitude's value: below 2^23 it is doubled and the place lowered. -/
theorem exists_unitsOfMag {t : Nat} (ht : t ≤ 2 ^ 24) (k : Nat) : ∃ m, unitsOfMag m = t * 2 ^ k := by
  induction k generalizing t with
  | zero => exact ⟨0 * 2 ^ 23 + t, unitsOfMag_parts (.inl rfl) ht⟩
  | succ k ih =>
    rcases Nat.lt_or_ge t (2 ^ 23) with h | h
    · obtain ⟨m, hm⟩ := ih (t := t * 2) (by omega)
      exact ⟨m, by rw [hm, Nat.pow_succ', Nat.mul_assoc]⟩
    · exact ⟨_, unitsOfMag_parts (.inr h) ht⟩

/-- An odd number of units has its last place at one unit, so at most 24 bits. -/
theorem unitsOfMag_lt_of_odd {m : Nat} (h : unitsOfMag m % 2 = 1) : unitsOfMag m < 2 ^ 24 := by
  obtain ⟨k, t, rfl, hk, ht⟩ := mag_split m
  rw [unitsOfMag_parts hk ht.le] at h ⊢
  cases k with
  | zero => rwa [Nat.pow_zero, Nat.mul_one]
  | succ k =>
    rw [Nat.pow_succ, ← Nat.mul_assoc, Nat.mul_mod_left] at h
    exact absurd h Nat.zero_ne_one

/-- A finite rounded value lies on the same side of its midpoint with any other value as the exact value does. -/
theorem roundMag_midpoint {num den : Nat} (hd : 0 < den) (hfin : roundMag num den < infMag) (m : Nat) :
    (unitsOfMag m < unitsOfMag (roundMag num den) →
      (unitsOfMag m + unitsOfMag (roundMag num den)) * den ≤ 2 * num) ∧
    (unitsOfMag (roundMag num den) < unitsOfMag m →
      2 * num ≤ (unitsOfMag m + unitsOfMag (roundMag num den)) * den) := by
  obtain ⟨hnear, -⟩ := roundMag_nearest hd hfin m
  unfold distTo at hnear
  generalize unitsOfMag (roundMag num den) = U at *
  generalize unitsOfMag m = u at *
  have hmul : ∀ a b : Nat, a < b → (a : Int) * den < b * den := fun a b h => by
    exact_mod_cast Nat.mul_lt_mul_of_pos_right h hd
  zify
  rw [add_mul]
  refine ⟨fun h => ?_, fun h => ?_⟩ <;> have hlt := hmul _ _ (by exact_mod_cast h)
  · have := le_abs_self ((U : Int) * den - num)
    rcases abs_cases ((u : Int) * den - num) with ⟨hu, -⟩ | ⟨hu, -⟩ <;> linarith
  · have := neg_le_abs ((U : Int) * den - num)
    rcases abs_cases ((u : Int) * den - num) with ⟨hu, -⟩ | ⟨hu, -⟩ <;> linarith

end Sys2Proof.Machine

/-! ### The square root (rule R114) -/

namespace Sys2Proof.Machine

/-- The search keeps `r² ≤ n < (r + 2^bits)²`. -/
theorem isqrtBits_bounds {b n r : Nat} (hlo : r * r ≤ n) (hhi : n < (r + 2 ^ b) * (r + 2 ^ b)) :
    isqrtBits b n r * isqrtBits b n r ≤ n ∧ n < (isqrtBits b n r + 1) * (isqrtBits b n r + 1) := by
  induction b generalizing r with
  | zero => exact ⟨hlo, hhi⟩
  | succ b ih =>
    rw [isqrtBits]
    split
    case isTrue h => exact ih h (by rwa [Nat.pow_succ', Nat.two_mul, ← Nat.add_assoc] at hhi)
    case isFalse h => exact ih hlo (Nat.lt_of_not_le h)

theorem isqrt_eq_sqrt {n : Nat} (h : n < 2 ^ 214 * 2 ^ 214) : isqrt n = Nat.sqrt n :=
  Nat.eq_sqrt.2 (isqrtBits_bounds (Nat.zero_le n) (by rwa [Nat.zero_add]))

/-- Twice the root of `n`, as `fsqrt` rounds it: of the root's whole part, and made odd where the root is not whole. -/
def rootHalves (n : Nat) : Nat := 2 * isqrt n + (if isqrt n * isqrt n = n then 0 else 1)

/-- No value is closer to the root of `n` than `U`, said by the squares of the midpoints with `U`. -/
def NearestRoot (n U : Nat) : Prop :=
  ∀ m, (unitsOfMag m < U → (unitsOfMag m + U) * (unitsOfMag m + U) ≤ 4 * n) ∧
    (U < unitsOfMag m → 4 * n ≤ (unitsOfMag m + U) * (unitsOfMag m + U))

/-- A whole number compares with `rootHalves n` as its square with four times `n`, unless it is that number and odd. -/
theorem sq_of_rootHalves {n c : Nat} (hn : n < 2 ^ 214 * 2 ^ 214) (hc : rootHalves n % 2 = 1 → c ≠ rootHalves n) :
    (c ≤ rootHalves n → c * c ≤ 4 * n) ∧ (rootHalves n ≤ c → 4 * n ≤ c * c) := by
  have hlo := Nat.sqrt_le n
  have hhi := Nat.lt_succ_sqrt n
  unfold rootHalves at *
  rw [isqrt_eq_sqrt hn] at *
  generalize Nat.sqrt n = s at *
  split at hc
  case isTrue h =>
    rw [if_pos h]
    exact ⟨fun h1 => by nlinarith, fun h1 => by nlinarith⟩
  case isFalse h =>
    rw [if_neg h]
    have hne : c ≠ 2 * s + 1 := hc (by omega)
    refine ⟨fun h1 => ?_, fun h1 => ?_⟩
    · have : c ≤ 2 * s := by omega
      nlinarith
    · have : 2 * (s + 1) ≤ c := by omega
      nlinarith

/-- An odd number of halves above 2^24 is never a midpoint of its rounding with another value: one of the two would be an odd
number of units, so below 2^24, and one unit more would be nearer. -/
theorem roundMag_no_odd_midpoint {y : Nat} (hodd : y % 2 = 1) (hlarge : 2 ^ 25 < y) (hfin : roundMag y 2 < infMag) (m : Nat) :
    unitsOfMag m + unitsOfMag (roundMag y 2) ≠ y := by
  intro htie
  have hno : ∀ m', unitsOfMag m' % 2 = 1 →
      unitsOfMag m' ≠ unitsOfMag m ∧ unitsOfMag m' ≠ unitsOfMag (roundMag y 2) := by
    intro m' h1
    have hsmall := unitsOfMag_lt_of_odd h1
    obtain ⟨m₁, hm₁⟩ := exists_unitsOfMag hsmall 0
    obtain ⟨hnear, -⟩ := roundMag_nearest Nat.two_pos hfin m₁
    have hneg : ((unitsOfMag m' + 1 : Nat) : Int) * (2 : Nat) - y ≤ 0 := by omega
    rw [Nat.pow_zero, Nat.mul_one] at hm₁
    rw [distTo, distTo, hm₁, abs_of_nonpos hneg, abs_le] at hnear
    omega
  rcases Nat.mod_two_eq_zero_or_one (unitsOfMag m) with h | h
  · exact (hno (roundMag y 2) (by omega)).2 rfl
  · exact (hno m h).1 rfl

/-- The root of a number of units neither small nor past the range, rounded, is finite and nearest. -/
theorem roundMag_rootHalves {n : Nat} (hlo : 2 ^ 50 ≤ n) (hhi : n < 2 ^ 213 * 2 ^ 213) :
    roundMag (rootHalves n) 2 < infMag ∧ NearestRoot n (unitsOfMag (roundMag (rootHalves n) 2)) := by
  have hn : n < 2 ^ 214 * 2 ^ 214 := by omega
  have hslo : 2 ^ 25 ≤ Nat.sqrt n := Nat.le_sqrt.2 (by rwa [← Nat.pow_add])
  have hshi : Nat.sqrt n < 2 ^ 213 := Nat.sqrt_lt.2 hhi
  have hy : 2 * Nat.sqrt n ≤ rootHalves n ∧ rootHalves n ≤ 2 * Nat.sqrt n + 1 := by
    rw [rootHalves, isqrt_eq_sqrt hn]
    split <;> omega
  have hfin : roundMag (rootHalves n) 2 < infMag :=
    lt_of_le_of_ne (roundMag_le _ _) fun h => by rw [roundMag_eq_inf Nat.two_pos] at h; omega
  refine ⟨hfin, fun m => ?_⟩
  obtain ⟨hbelow, habove⟩ := roundMag_midpoint Nat.two_pos hfin m
  obtain ⟨hsqle, hlesq⟩ := sq_of_rootHalves hn fun hodd => roundMag_no_odd_midpoint hodd (by omega) hfin m
  exact ⟨fun h => hsqle (by have := hbelow h; omega), fun h => hlesq (by have := habove h; omega)⟩

/-- The root of a positive finite value is finite, positive and nearest. -/
theorem fsqrt_of_positive {a : F32} (hf : isFinite a = true) (hz : isZero a = false) (hs : fsign a = false) :
    ∃ r, r < infMag ∧ fsqrt a = pack false r ∧ NearestRoot (magUnits a * 2 ^ 149) (unitsOfMag r) := by
  obtain ⟨hn, hi⟩ := isFinite_iff.1 hf
  have hlt := magUnits_lt_of_isFinite hf
  have hpos := isZero_eq_false_iff.1 hz
  obtain ⟨hfin, hroot⟩ := roundMag_rootHalves (n := magUnits a * 2 ^ 149) (by omega) (by omega)
  exact ⟨_, hfin, by simp [fsqrt, rootHalves, hn, hi, hz, hs], hroot⟩

/-- Settles O54: the special values by the branches of `fsqrt`, the positive finite ones by the midpoints of the rounding. -/
theorem rootsAreCorrectlyRounded : Obligations.RootsAreCorrectlyRounded := by
  intro a
  refine ⟨fun hn => ?_, fun hn hs hz => ?_, fun hz => ?_, fun hi hs => ?_, fun hf hz hs => ?_⟩
  · simp [fsqrt, hn]
  · simp [fsqrt, hn, hs, hz]
  · simp [fsqrt, hz, (isFinite_iff.1 (isFinite_of_isZero hz)).1]
  · obtain ⟨hn, hz⟩ := not_isNaN_isZero_of_isInf hi
    simp [fsqrt, hn, hz, hs, hi]
  · obtain ⟨r, hr, hroot, hnear⟩ := fsqrt_of_positive hf hz hs
    have hr31 : r < 2 ^ 31 := hr.trans (by decide)
    have hU : units (pack false r) = unitsOfMag r := by rw [units_pack _ hr31]; rfl
    have ha : units a * 2 ^ 149 = (magUnits a * 2 ^ 149 : Nat) := by simp [units, hs]
    rw [hroot, hU, ha]
    refine ⟨fmag_lt_infMag.1 (by rwa [fmag_pack _ hr31]), fsign_pack _ hr31, fun z _ => ⟨fun h0 h => ?_, fun h => ?_⟩⟩
    · rw [units_eq_of_nonneg h0] at h ⊢
      exact_mod_cast (hnear (fmag z)).1 (by exact_mod_cast h)
    · have hz : units z = unitsOfMag (fmag z) := units_eq_of_nonneg (by omega)
      rw [hz] at h ⊢
      exact_mod_cast (hnear (fmag z)).2 (by exact_mod_cast h)

end Sys2Proof.Machine

/-! ### Comparisons, maximum and minimum (rules R106, R107) -/

namespace Sys2Proof.Machine

theorem flt_iff {a b : F32} : flt a b = true ↔ isNaN a = false ∧ isNaN b = false ∧ units a < units b := by
  simp [flt, units_lt_iff, and_assoc]

theorem fle_iff {a b : F32} : fle a b = true ↔ isNaN a = false ∧ isNaN b = false ∧ units a ≤ units b := by
  simp [fle, units_le_iff, and_assoc]

/-- Settles O55: the comparison keys order as the values. -/
theorem absoluteValueAndComparisons : Obligations.AbsoluteValueAndComparisons := by
  intro a b
  refine ⟨fmag_fabs a, fsign_fabs a, isNaN_fabs a, flt_iff, ?_, fle_iff, ?_, fun ha hb => ⟨?_, ?_⟩⟩
  · rw [fgt, flt_iff, and_left_comm]
  · rw [fge, fle_iff, and_left_comm]
  · rw [Bool.eq_false_iff, Ne, flt_iff, units_of_isZero ha, units_of_isZero hb]
    simp
  · rw [fle_iff, units_of_isZero ha, units_of_isZero hb]
    exact ⟨(isFinite_iff.1 (isFinite_of_isZero ha)).1, (isFinite_iff.1 (isFinite_of_isZero hb)).1, le_rfl⟩

/-- Without NaNs `fmax` gives an operand that the other does not exceed. -/
theorem fmax_cases {a b : F32} (ha : isNaN a = false) (hb : isNaN b = false) :
    (fmax a b = a ∧ units b ≤ units a) ∨ (fmax a b = b ∧ units a ≤ units b) := by
  simp only [units_le_iff, fmax, ha, hb, Bool.false_or, beq_iff_eq, Bool.false_eq_true, if_false]
  split_ifs with heq hkey _ hlt
  · exact .inl ⟨rfl, by rw [heq]⟩
  · exact .inl ⟨rfl, hkey.ge⟩
  · exact .inr ⟨rfl, hkey.le⟩
  · exact .inr ⟨rfl, hlt.le⟩
  · exact .inl ⟨rfl, not_lt.1 hlt⟩

/-- Without NaNs `fmin` gives an operand that does not exceed the other. -/
theorem fmin_cases {a b : F32} (ha : isNaN a = false) (hb : isNaN b = false) :
    (fmin a b = a ∧ units a ≤ units b) ∨ (fmin a b = b ∧ units b ≤ units a) := by
  simp only [units_le_iff, fmin, ha, hb, Bool.false_or, beq_iff_eq, Bool.false_eq_true, if_false]
  split_ifs with heq hkey _ hlt
  · exact .inl ⟨rfl, by rw [heq]⟩
  · exact .inl ⟨rfl, hkey.le⟩
  · exact .inr ⟨rfl, hkey.ge⟩
  · exact .inl ⟨rfl, hlt.le⟩
  · exact .inr ⟨rfl, not_lt.1 hlt⟩

/-- Settles O56: by which operands are NaNs. -/
theorem maximumAndMinimum : Obligations.MaximumAndMinimum := by
  intro a b
  refine ⟨fun ha hb => ?_, fun ha hb => ?_, fun ha hb => ?_, fun ha hb => ?_⟩
  · obtain ⟨emax, hmax⟩ | ⟨emax, hmax⟩ := fmax_cases ha hb <;>
      obtain ⟨emin, hmin⟩ | ⟨emin, hmin⟩ := fmin_cases ha hb <;> simp [emax, emin, hmax, hmin]
  · simp [fmax, fmin, ha, hb]
  · simp [fmax, fmin, ha, hb]
  · simp [fmax, fmin, ha, hb]

end Sys2Proof.Machine

/-! ### The denormal guard and the dB helpers (rules R108, R112, R113) -/

namespace Sys2Proof.Machine

/-- The guard flushes a magnitude below that of its threshold, which is positive and no NaN. -/
theorem flush_eq_of_positive {v t : F32} (hn : isNaN t = false) (hs : fsign t = false) :
    flush v t = if fmag v < fmag t then litZero else v := by
  have hlt : flt (fabs v) t = decide (fmag v < fmag t) := by
    by_cases h : fmag v < fmag t
    · have hv : isNaN v = false := by simp only [isNaN, decide_eq_false_iff_not] at *; omega
      simp [flt, fkey, hn, hs, hv, h]
    · simp [flt, fkey, hs, h]
  rw [flush, hlt]
  simp only [decide_eq_true_eq]

theorem flush_of_isInf {v t : F32} (h : isInf v = true) (hn : isNaN t = false) (hs : fsign t = false) :
    flush v t = v := by
  rw [flush_eq_of_positive hn hs, if_neg]
  simp only [isInf, isNaN, decide_eq_true_eq, decide_eq_false_iff_not] at *
  omega

theorem flush_of_isZero {v t : F32} (h : isZero v = true) (hn : isNaN t = false) (hs : fsign t = false)
    (hz : isZero t = false) : flush v t = litZero := by
  rw [flush_eq_of_positive hn hs, if_pos]
  simp only [isZero, decide_eq_true_eq, decide_eq_false_iff_not] at *
  omega

theorem litBiquadFlush_facts : isNaN litBiquadFlush = false ∧ fsign litBiquadFlush = false ∧ isZero litBiquadFlush = false := by
  decide

theorem litEnvFlush_facts : isNaN litEnvFlush = false ∧ fsign litEnvFlush = false ∧ isZero litEnvFlush = false := by
  decide

/-- Settles O57: both thresholds are positive; the rest is by definition. -/
theorem guardAndDecibelHelpers : Obligations.GuardAndDecibelHelpers := by
  intro N v t
  obtain ⟨bn, bs, bz⟩ := litBiquadFlush_facts
  obtain ⟨en, es, ez⟩ := litEnvFlush_facts
  exact ⟨rfl, fun h => flush_of_isNaN h t, fun h => ⟨flush_of_isInf h bn bs, flush_of_isInf h en es⟩,
    fun h => ⟨flush_of_isZero h bn bs bz, flush_of_isZero h en es ez⟩, rfl, rfl, rfl, rfl, rfl⟩

end Sys2Proof.Machine

/-! ### Whole numbers (rules R109, R110) -/

namespace Sys2Proof.Machine

@[simp] theorem fneg_fneg (x : F32) : fneg (fneg x) = x := eq_of_fields (by simp) (by simp)
@[simp] theorem isInf_fneg (x : F32) : isInf (fneg x) = isInf x := by simp [isInf]
@[simp] theorem isZero_fneg (x : F32) : isZero (fneg x) = isZero x := by simp [isZero]
@[simp] theorem isFinite_fneg (x : F32) : isFinite (fneg x) = isFinite x := by simp [isFinite]
@[simp] theorem magDown_fneg (x : F32) : magDown (fneg x) = magDown x := by rw [magDown, magUnits_fneg, magDown]
@[simp] theorem magUp_fneg (x : F32) : magUp (fneg x) = magUp x := by rw [magUp, magUnits_fneg, magUp]

theorem magDown_eq (x : F32) : magDown x = magUnits x / 2 ^ 149 := rfl
theorem magUp_eq (x : F32) : magUp x = (magUnits x + (2 ^ 149 - 1)) / 2 ^ 149 := rfl
theorem integralLike_eq (x : F32) (n : Nat) : integralLike x n = pack (fsign x) (roundMag (n * 2 ^ 149) 1) := rfl

theorem fneg_integralLike_fneg (x : F32) (n : Nat) : fneg (integralLike (fneg x) n) = integralLike x n := by
  have hm := roundMag_lt (n * 2 ^ 149) 1
  rw [integralLike_eq, integralLike_eq, fneg, fsign_pack _ hm, fmag_pack _ hm, fsign_fneg, Bool.not_not]

/-- Rounding up is rounding down seen from the other side of zero. -/
theorem fceil_eq_fneg_ffloor (x : F32) : fceil x = fneg (ffloor (fneg x)) := by
  simp only [fceil, ffloor, isNaN_fneg, isInf_fneg, isZero_fneg, fsign_fneg, magDown_fneg, magUp_fneg]
  split
  · rw [fneg_fneg]
  · rw [fneg_integralLike_fneg]
    cases fsign x <;> simp only [Bool.not_true, Bool.not_false, Bool.false_eq_true, if_true, if_false]

theorem ffloor_of_special {x : F32} (h : isNaN x = true ∨ isInf x = true ∨ isZero x = true) : ffloor x = x :=
  if_pos (by simpa [or_assoc] using h)

/-- A whole number next to a finite magnitude is a binary32 value: it is the magnitude itself, or it has at most 24 bits. -/
theorem exists_mag_of_whole {x : F32} (hx : isFinite x = true) {n : Nat} (hlo : magDown x ≤ n) (hhi : n ≤ magUp x) :
    ∃ m, m < infMag ∧ unitsOfMag m = n * 2 ^ 149 := by
  obtain ⟨k, t, hm, hk, ht⟩ := mag_split (fmag x)
  have hu : magUnits x = t * 2 ^ k := by rw [magUnits_eq, hm, unitsOfMag_parts hk ht.le]
  rw [magDown_eq] at hlo
  rw [magUp_eq] at hhi
  rcases le_total 149 k with hk | hk
  · have hdvd : 2 ^ 149 ∣ magUnits x := hu ▸ (pow_dvd_pow 2 hk).mul_left t
    exact ⟨fmag x, fmag_lt_infMag.2 hx, by rw [← magUnits_eq]; omega⟩
  · have hle : magUnits x ≤ t * 2 ^ 149 := hu ▸ Nat.mul_le_mul_left t (Nat.pow_le_pow_right (by decide) hk)
    obtain ⟨m, hm⟩ := exists_unitsOfMag (t := n) (by omega) 149
    refine ⟨m, unitsOfMag_strictMono.lt_iff_lt.1 ?_, hm⟩
    rw [hm, unitsOfMag_infMag]
    omega

theorem magDown_le_magUp (x : F32) : magDown x ≤ magUp x := Nat.div_le_div_right (Nat.le_add_right _ _)

/-- A whole number next to a finite value is packed exactly. -/
theorem integralLike_exact {x : F32} (hx : isFinite x = true) {n : Nat} (hlo : magDown x ≤ n) (hhi : n ≤ magUp x) :
    isFinite (integralLike x n) = true ∧
      units (integralLike x n) = if fsign x then -((n * 2 ^ 149 : Nat) : Int) else (n * 2 ^ 149 : Nat) := by
  obtain ⟨m, hm, hu⟩ := exists_mag_of_whole hx hlo hhi
  have hround : roundMag (n * 2 ^ 149) 1 = m := by rw [← hu, ← Nat.mul_one (unitsOfMag m), roundMag_exact hm Nat.one_pos]
  have hlt := hround ▸ roundMag_lt (n * 2 ^ 149) 1
  rw [integralLike_eq, hround, ← fmag_lt_infMag, fmag_pack _ hlt, units_pack _ hlt, hu]
  exact ⟨hm, rfl⟩

/-- `ffloor` of a finite value is the integral part, towards minus infinity, of that value. -/
theorem ffloor_exact {x : F32} (hx : isFinite x = true) :
    isFinite (ffloor x) = true ∧ units (ffloor x) = units x / 2 ^ 149 * 2 ^ 149 := by
  obtain ⟨hn, hi⟩ := isFinite_iff.1 hx
  have hle := magDown_le_magUp x
  cases hz : isZero x with
  | true =>
    rw [ffloor_of_special (.inr (.inr hz)), units_of_isZero hz]
    exact ⟨hx, rfl⟩
  | false =>
    simp only [ffloor, hn, hi, hz, Bool.or_self, Bool.false_eq_true, if_false]
    split
    case isTrue hs =>
      obtain ⟨hfin, hu⟩ := integralLike_exact hx hle le_rfl
      refine ⟨hfin, ?_⟩
      rw [hu, if_pos hs, units, if_pos hs, magUp_eq]
      omega
    case isFalse hs =>
      obtain ⟨hfin, hu⟩ := integralLike_exact hx le_rfl hle
      refine ⟨hfin, ?_⟩
      rw [hu, if_neg hs, units, if_neg hs, magDown_eq]
      omega

/-- Settles O58: both are exact, and the integral part of the division by 1.0 is the greatest whole number not above. -/
theorem floorAndCeiling : Obligations.FloorAndCeiling := by
  intro x
  refine ⟨fun h => ⟨ffloor_of_special h, ?_⟩, fun h => ?_⟩
  · rw [fceil_eq_fneg_ffloor, ffloor_of_special (by simpa using h), fneg_fneg]
  · obtain ⟨hf, hfu⟩ := ffloor_exact h
    obtain ⟨hc, hcu⟩ := ffloor_exact (x := fneg x) (by simpa using h)
    rw [fceil_eq_fneg_ffloor, isFinite_fneg, units_fneg, hcu, hfu, units_fneg]
    have hdvd (q : Int) : (2 ^ 149 : Int) ∣ q * 2 ^ 149 := Dvd.intro_left q rfl
    exact ⟨hf, hdvd _, by omega, hc, (hdvd _).neg_right, by omega, fun n => ⟨by omega, by omega⟩⟩

/-- `f2n` is the integral part of the value, cut to the range 0 to 4294967295. -/
theorem f2n_eq {v : F32} (h : isNaN v = false) : (f2n v : Int) = max 0 (min (units v / 2 ^ 149) 4294967295) := by
  rw [f2n, h, units]
  simp only [Bool.false_eq_true, if_false, magDown_eq]
  split <;> omega

/-- Settles O59: the bounds of each range bound the integral part. -/
theorem saturatingConversion : Obligations.SaturatingConversion := by
  intro v
  have hzero : units litZero = 0 := units_of_isZero rfl
  have htop : units 0x4F800000 = 2 ^ 32 * 2 ^ 149 := by decide +kernel
  refine ⟨fun h => if_pos h, fun h => ?_, fun h => ?_, fun hlo hhi => ?_⟩
  · obtain ⟨hn, -, hle⟩ := fle_iff.1 h
    have := f2n_eq hn
    omega
  · obtain ⟨-, hn, hle⟩ := fle_iff.1 h
    have := f2n_eq hn
    omega
  · obtain ⟨-, hn, hpos⟩ := flt_iff.1 hlo
    obtain ⟨-, -, hlt⟩ := flt_iff.1 hhi
    have := f2n_eq hn
    omega

end Sys2Proof.Machine

/-! ### The coefficient engine (rules R130 to R159) -/

namespace Sys2Proof

/-- The fields of an encoded `COEF_DERIVE` are read back whatever the lanes hold: A4 is not looked at (rules R72, R80). -/
theorem decode_coefDerive (t : FilterType) (f q g sr a4 : F32) :
    decode ⟨commandWord 0x10 0 t.code, f, q, g, sr, a4⟩ = .ok (Instr.coefDerive t f q g sr) := by
  simp [decode, decodeOpcode, decodeTyped]

end Sys2Proof

namespace Sys2Proof.Machine

/-! #### The command -/

/-- The 24 instructions of `COEF_DERIVE` run the one shared operation with their type (rule R130). -/
theorem exec_coefDerive (t : FilterType) (f q g sr : F32) (s : State) :
    exec (Instr.coefDerive t f q g sr) s = coefDerive t f q g sr s := by
  cases t <;> rfl

/-- Settles O17: the command word by its fields, the effect by the operation that all 24 instructions share. -/
theorem coefDeriveAnswersTheFiveCoefficients : Obligations.CoefDeriveAnswersTheFiveCoefficients :=
  fun t f q g sr a4 s => ⟨decode_coefDerive t f q g sr a4, exec_coefDerive t f q g sr s⟩

/-! #### The prelude -/

/-- Settles O19: each part is the definition of the prelude or of the normalisation. -/
theorem derivationPreludeAndNormalisation : Obligations.DerivationPreludeAndNormalisation :=
  fun _ _ _ => ⟨⟨rfl, rfl, rfl, rfl, fun _ => rfl, fun _ => rfl⟩, fun _ _ _ _ _ _ => rfl⟩

theorem fmul_litTwo_litHalf : fmul litTwo litHalf = litOne := by decide +kernel

/-- At Q 0.5 the divisor `2.0 · Q` is 1.0, and dividing by 1.0 is exact (rule R148). -/
theorem alpha_litHalf {x : FilterContext} (h : isNaN x.sn = false) : alpha x litHalf = x.sn := by
  rw [alpha, fmul_litTwo_litHalf, fdiv_one h]

/-- Over an a0 of 1.0 the normalisation of values that are no NaN changes nothing. -/
theorem normalise_of_a0r_one {b0 b1 b2 a1 a2 : F32} (hb0 : isNaN b0 = false) (hb1 : isNaN b1 = false)
    (hb2 : isNaN b2 = false) (ha1 : isNaN a1 = false) (ha2 : isNaN a2 = false) :
    normalise ⟨b0, b1, b2, litOne, a1, a2⟩ = ⟨b0, b1, b2, a1, a2⟩ := by
  simp only [normalise, fdiv_one, hb0, hb1, hb2, ha1, ha2]

/-! #### The choices the parameters make -/

section
variable (P : Params) (N : Numerics) (tilt : TiltArgs → RawCoefs) (f q g sr : F32)

theorem derive_bpfPeakq : derive P N tilt .bpfPeakq f q g sr =
    bandPass (filterContext N f sr).cs (alpha (filterContext N f sr) q)
      (bpfPeakqScale P.bpfGainAssignment q (alpha (filterContext N f sr) q)) := rfl

theorem derive_bpf0db : derive P N tilt .bpf0db f q g sr =
    bandPass (filterContext N f sr).cs (alpha (filterContext N f sr) q)
      (bpf0dbScale P.bpfGainAssignment q (alpha (filterContext N f sr) q)) := rfl

theorem derive_lp1 : derive P N tilt .lp1 f q g sr =
    onePoleLow (onePoleK N P.onepoleKReading (filterContext N f sr).w0) := rfl

theorem derive_hp1 : derive P N tilt .hp1 f q g sr =
    onePoleHigh (onePoleK N P.onepoleKReading (filterContext N f sr).w0) := rfl

end

theorem shelf_eq_ite (side : ShelfSide) (cs al A : F32) :
    shelf side cs al A = if side = .low then lowShelf cs al A else highShelf cs al A := by
  cases side <;> rfl

/-! #### The filter types -/

/-- Settles O21: by definition, the band-pass pair for each assignment. -/
theorem basicTwoPoleTypes : Obligations.BasicTwoPoleTypes := by
  intro P N tilt f q g sr
  refine ⟨rfl, rfl, rfl, fun hP => ⟨?_, ?_⟩, fun hP => ⟨?_, ?_⟩, rfl, rfl⟩
  · rw [derive_bpfPeakq, hP]; rfl
  · rw [derive_bpf0db, hP]; rfl
  · rw [derive_bpfPeakq, hP]; rfl
  · rw [derive_bpf0db, hP]; rfl

/-- Settles O22: under either reading `k` is the model's `onePoleK`. -/
theorem onePoleTypes : Obligations.OnePoleTypes := by
  intro P N tilt f q g sr k x hk
  have hK : onePoleK N P.onepoleKReading x.w0 = k := by
    obtain ⟨hP, rfl⟩ | ⟨hP, rfl⟩ := hk
    · rw [hP]; rfl
    · rw [hP]; rfl
  refine ⟨rfl, rfl, ?_, ?_⟩
  · rw [derive_lp1, hK]; rfl
  · rw [derive_hp1, hK]; rfl

/-- Settles O23: the characters are the peaking equations at their own Q and floored gain, by definition. -/
theorem peakingTypes : Obligations.PeakingTypes :=
  fun _ _ _ _ _ _ _ => ⟨rfl, rfl, rfl, rfl⟩

/-- Settles O24: the two shelves by definition, the four characters by the side of each. -/
theorem shelfTypes : Obligations.ShelfTypes := by
  intro P N tilt f q g sr
  exact ⟨rfl, rfl, rfl, shelf_eq_ite _ _ _ _, shelf_eq_ite _ _ _ _, shelf_eq_ite _ _ _ _, shelf_eq_ite _ _ _ _⟩

/-- Settles O25: a fixed-Q type and the type it stands for are one equation by definition; the Linkwitz-Riley alpha is
`alpha_litHalf`. -/
theorem fixedQTypesAndDcBlock : Obligations.FixedQTypesAndDcBlock :=
  fun _ _ _ _ _ _ _ _ _ => ⟨rfl, rfl, rfl, rfl, rfl, rfl, alpha_litHalf⟩

/-- Settles O26: TILT by definition; the five divisions of UNITY are by 1.0. -/
theorem tiltAndUnityTypes : Obligations.TiltAndUnityTypes := by
  intro P N tilt f q g sr
  have h1 : isNaN litOne = false := by decide
  have h0 : isNaN litZero = false := by decide
  exact ⟨rfl, rfl, rfl, rfl, normalise_of_a0r_one h1 h0 h0 h0 h0⟩

end Sys2Proof.Machine

/-! ### The biquad stage and the resets of the units (rules R181 to R184, R203, R224) -/

namespace Sys2Proof

/-! #### The command words -/

/-- A word with reserved byte zero is read by its opcode byte (rules R75, R78). -/
theorem decode_commandWord (op inst ft : BitVec 8) (a0 a1 a2 a3 a4 : F32) :
    decode ⟨commandWord op inst ft, a0, a1, a2, a3, a4⟩ = decodeOpcode ⟨commandWord op inst ft, a0, a1, a2, a3, a4⟩ :=
  if_pos (rsvdField_commandWord op inst ft)

/-- Format P with type byte zero (rule R71). -/
@[simp] theorem decodePlain_commandWord (op inst : BitVec 8) (a0 a1 a2 a3 a4 : F32) (i : Instr) :
    decodePlain ⟨commandWord op inst 0#8, a0, a1, a2, a3, a4⟩ i = .ok i :=
  if_pos (ftypeField_commandWord op inst 0)

/-- Format T with the code of a type (rules R71, R76). -/
@[simp] theorem decodeTyped_commandWord (op inst : BitVec 8) (t : FilterType) (a0 a1 a2 a3 a4 : F32)
    (mk : FilterType → Instr) : decodeTyped ⟨commandWord op inst t.code, a0, a1, a2, a3, a4⟩ mk = .ok (mk t) := by
  simp [decodeTyped]

theorem decode_bqUpdate (t : FilterType) (i : BitVec 8) (f q g sr a4 : F32) :
    decode ⟨commandWord 0x11 i t.code, f, q, g, sr, a4⟩ = .ok (Instr.bqUpdate t i f q g sr) := by
  simp [decode_commandWord, decodeOpcode]

theorem decode_bqSetcoef (i : BitVec 8) (b0 b1 b2 a1 a2 : F32) :
    decode ⟨commandWord 0x12 i 0, b0, b1, b2, a1, a2⟩ = .ok (.bqSetcoef i b0 b1 b2 a1 a2) := by
  simp [decode_commandWord, decodeOpcode]

theorem decode_bqProcess (i : BitVec 8) (input a1 a2 a3 a4 : F32) :
    decode ⟨commandWord 0x13 i 0, input, a1, a2, a3, a4⟩ = .ok (.bqProcess i input) := by
  simp [decode_commandWord, decodeOpcode]

theorem decode_bqReset (i : BitVec 8) (a0 a1 a2 a3 a4 : F32) :
    decode ⟨commandWord 0x14 i 0, a0, a1, a2, a3, a4⟩ = .ok (.bqReset i) := by
  simp [decode_commandWord, decodeOpcode]

theorem decode_envReset (i : BitVec 8) (a0 a1 a2 a3 a4 : F32) :
    decode ⟨commandWord 0x22 i 0, a0, a1, a2, a3, a4⟩ = .ok (.envReset i) := by
  simp [decode_commandWord, decodeOpcode]

theorem decode_compReset (i : BitVec 8) (a0 a1 a2 a3 a4 : F32) :
    decode ⟨commandWord 0x32 i 0, a0, a1, a2, a3, a4⟩ = .ok (.compReset i) := by
  simp [decode_commandWord, decodeOpcode]

end Sys2Proof

namespace Sys2Proof.Machine

/-! #### The commands on a stage that exists -/

section
variable {s : State} {i : BitVec 8} {b : Biquad} (hb : s.bq[i.toNat]? = some b)
include hb

theorem bqUpdate_of_get (t : FilterType) (f q g sr : F32) :
    bqUpdate t i f q g sr s = finishBq s i (b.load (deriveHw s.params t f q g sr)) .empty := withBq_of_get hb _

theorem execBqSetcoef_of_get (b0 b1 b2 a1 a2 : F32) :
    execBqSetcoef i b0 b1 b2 a1 a2 s = finishBq s i (b.load ⟨b0, b1, b2, a1, a2⟩) .empty := withBq_of_get hb _

theorem execBqProcess_of_unwritten (x : F32) (hw : b.coefWritten = false) :
    execBqProcess i x s = .refused .unwrittenCoefficients := by
  simp [execBqProcess, withBq_of_get hb, hw]

theorem execBqProcess_of_written (x : F32) (hw : b.coefWritten = true) :
    execBqProcess i x s = finishBq s i (b.shift x (b.output x)) (.value (b.output x)) := by
  simp [execBqProcess, withBq_of_get hb, hw]

theorem execBqReset_of_get : execBqReset i s = finishBq s i b.zeroHistory .empty := withBq_of_get hb _

end

/-- The 24 instructions of `BQ_UPDATE` run the one shared operation with their type (rule R181). -/
theorem exec_bqUpdate (t : FilterType) (i : BitVec 8) (f q g sr : F32) (s : State) :
    exec (Instr.bqUpdate t i f q g sr) s = bqUpdate t i f q g sr s := by
  cases t <;> rfl

/-- Settles O18: the command word by its fields, the effect by the operation that all 24 instructions share. -/
theorem bqUpdateStoresTheDerivation : Obligations.BqUpdateStoresTheDerivation :=
  fun t i f q g sr a4 s =>
    ⟨decode_bqUpdate t i f q g sr a4, fun _ hb => (exec_bqUpdate t i f q g sr s).trans (bqUpdate_of_get hb t f q g sr)⟩

/-- Settles O30: the operands are loaded by the same `Biquad.load` as a derivation. -/
theorem bqSetcoefStoresItsOperands : Obligations.BqSetcoefStoresItsOperands :=
  fun i b0 b1 b2 a1 a2 _ => ⟨decode_bqSetcoef i b0 b1 b2 a1 a2, fun _ hb => execBqSetcoef_of_get hb b0 b1 b2 a1 a2⟩

/-- Settles O31: by the mark, the refusal or the shift of the history by the flushed sum. -/
theorem bqProcessRunsTheRecurrence : Obligations.BqProcessRunsTheRecurrence :=
  fun i x a1 a2 a3 a4 _ => ⟨decode_bqProcess i x a1 a2 a3 a4, fun _ hb =>
    ⟨execBqProcess_of_unwritten hb x, execBqProcess_of_written hb x⟩⟩

/-! #### The resets -/

theorem execEnvReset_of_get {s : State} {i : BitVec 8} {e : Follower} (he : s.ef[i.toNat]? = some e) :
    execEnvReset i s = finishEf s i (efReset e) .empty := withEf_of_get he _

theorem execCompReset_of_get {s : State} {i : BitVec 8} {c : Compressor} (hc : s.comp[i.toNat]? = some c) :
    execCompReset i s = finishComp s i ⟨efReset c.ef⟩ .empty := withComp_of_get hc _

/-- What is put where something stood is found there. -/
theorem getElem?_set_of_get {α : Type} {l : List α} {n : Nat} {x : α} (h : l[n]? = some x) (y : α) :
    (l.set n y)[n]? = some y := List.getElem?_set_self (List.getElem?_eq_some_iff.1 h).1

/-- A stage command that leaves what it finds, and answers the response that is there, changes nothing. -/
theorem finishBq_finished (s : State) (i : BitVec 8) (b : Biquad) (r : Response) :
    finishBq ((s.setBq i b).respond r) i b r = .next ((s.setBq i b).respond r) := by
  simp [finishBq, State.setBq, State.respond]

/-- The same for the envelope followers. -/
theorem finishEf_finished (s : State) (i : BitVec 8) (e : Follower) (r : Response) :
    finishEf ((s.setEf i e).respond r) i e r = .next ((s.setEf i e).respond r) := by
  simp [finishEf, State.setEf, State.respond]

/-- The same for the compressors. -/
theorem finishComp_finished (s : State) (i : BitVec 8) (c : Compressor) (r : Response) :
    finishComp ((s.setComp i c).respond r) i c r = .next ((s.setComp i c).respond r) := by
  simp [finishComp, State.setComp, State.respond]

/-- `BQ_RESET` twice is `BQ_RESET` once (rule R184): zeroing a zeroed history is no change. -/
theorem execBqReset_again {s t : State} {i : BitVec 8} (h : execBqReset i s = .next t) : execBqReset i t = .next t := by
  obtain ⟨b, hb, hk⟩ := withBq_next h
  cases hk
  have h' : ((s.setBq i b.zeroHistory).respond .empty).bq[i.toNat]? = some b.zeroHistory := getElem?_set_of_get hb _
  exact (execBqReset_of_get h').trans (finishBq_finished s i b.zeroHistory .empty)

/-- `ENV_RESET` twice is `ENV_RESET` once (rule R203). -/
theorem execEnvReset_again {s t : State} {i : BitVec 8} (h : execEnvReset i s = .next t) :
    execEnvReset i t = .next t := by
  obtain ⟨e, he, hk⟩ := withEf_next h
  cases hk
  have h' : ((s.setEf i (efReset e)).respond .empty).ef[i.toNat]? = some (efReset e) := getElem?_set_of_get he _
  exact (execEnvReset_of_get h').trans (finishEf_finished s i (efReset e) .empty)

/-- `COMP_RESET` twice is `COMP_RESET` once (rule R224). -/
theorem execCompReset_again {s t : State} {i : BitVec 8} (h : execCompReset i s = .next t) :
    execCompReset i t = .next t := by
  obtain ⟨c, hc, hk⟩ := withComp_next h
  cases hk
  have h' : ((s.setComp i ⟨efReset c.ef⟩).respond .empty).comp[i.toNat]? = some ⟨efReset c.ef⟩ :=
    getElem?_set_of_get hc _
  exact (execCompReset_of_get h').trans (finishComp_finished s i ⟨efReset c.ef⟩ .empty)

/-- Settles O32: the words, what each reset does to a unit that exists, and each reset again. -/
theorem unitResetsZeroTheSignalState : Obligations.UnitResetsZeroTheSignalState :=
  fun i a0 a1 a2 a3 a4 _ =>
    ⟨⟨decode_bqReset i a0 a1 a2 a3 a4, decode_envReset i a0 a1 a2 a3 a4, decode_compReset i a0 a1 a2 a3 a4⟩,
      fun _ => execBqReset_of_get, fun _ => execEnvReset_of_get, fun _ => execCompReset_of_get,
      fun _ => ⟨execBqReset_again, execEnvReset_again, execCompReset_again⟩⟩

end Sys2Proof.Machine

/-! ### The envelope follower (rules R201, R202, R221) -/

namespace Sys2Proof

/-! #### The command words -/

theorem decode_envSettimes (i : BitVec 8) (am rm sr a3 a4 : F32) :
    decode ⟨commandWord 0x20 i 0, am, rm, sr, a3, a4⟩ = .ok (.envSettimes i am rm sr) := by
  simp [decode_commandWord, decodeOpcode]

theorem decode_envProcess (i : BitVec 8) (input a1 a2 a3 a4 : F32) :
    decode ⟨commandWord 0x21 i 0, input, a1, a2, a3, a4⟩ = .ok (.envProcess i input) := by
  simp [decode_commandWord, decodeOpcode]

theorem decode_compSettimes (i : BitVec 8) (am rm sr a3 a4 : F32) :
    decode ⟨commandWord 0x30 i 0, am, rm, sr, a3, a4⟩ = .ok (.compSettimes i am rm sr) := by
  simp [decode_commandWord, decodeOpcode]

end Sys2Proof

namespace Sys2Proof.Machine

/-! #### The commands on a unit that exists -/

theorem execCompSettimes_of_get {s : State} {i : BitVec 8} {c : Compressor} (hc : s.comp[i.toNat]? = some c)
    (am rm sr : F32) :
    execCompSettimes i am rm sr s = finishComp s i ⟨efSettimes Config.num c.ef am rm sr⟩ .empty := withComp_of_get hc _

section
variable {s : State} {i : BitVec 8} {e : Follower} (he : s.ef[i.toNat]? = some e)
include he

theorem execEnvSettimes_of_get (am rm sr : F32) :
    execEnvSettimes i am rm sr s = finishEf s i (efSettimes Config.num e am rm sr) .empty := withEf_of_get he _

theorem execEnvProcess_of_unwritten (x : F32) (hw : e.timesWritten = false) :
    execEnvProcess i x s = .refused .unwrittenCoefficients := by
  simp [execEnvProcess, withEf_of_get he, hw]

theorem execEnvProcess_of_written (x : F32) (hw : e.timesWritten = true) :
    execEnvProcess i x s = finishEf s i (efProcess e x) (.value (e.level x)) := by
  simp [execEnvProcess, withEf_of_get he, hw]

end

/-- Settles O36: the words, and the one `efSettimes` that both units run, the compressor on its private follower. -/
theorem settimesComputesBothCoefficients : Obligations.SettimesComputesBothCoefficients :=
  fun i am rm sr a3 a4 _ => ⟨decode_envSettimes i am rm sr a3 a4, decode_compSettimes i am rm sr a3 a4,
    fun _ he => execEnvSettimes_of_get he am rm sr, fun _ hc => execCompSettimes_of_get hc am rm sr⟩

/-- Settles O37: by the mark, the refusal or the follower at its new level, which is also the response. -/
theorem envProcessSmoothsTheRectifiedInput : Obligations.EnvProcessSmoothsTheRectifiedInput :=
  fun i x a1 a2 a3 a4 _ => ⟨decode_envProcess i x a1 a2 a3 a4, fun _ he =>
    ⟨execEnvProcess_of_unwritten he x, execEnvProcess_of_written he x⟩⟩

end Sys2Proof.Machine

/-! ### The compressor (rules R222, R223) -/

namespace Sys2Proof

theorem decode_compProcess (i : BitVec 8) (left right thr ratio knee : F32) :
    decode ⟨commandWord 0x31 i 0, left, right, thr, ratio, knee⟩ = .ok (.compProcess i left right thr ratio knee) := by
  simp [decode_commandWord, decodeOpcode]

end Sys2Proof

namespace Sys2Proof.Machine

section
variable {s : State} {i : BitVec 8} {c : Compressor} (hc : s.comp[i.toNat]? = some c)
include hc

theorem execCompProcess_of_unwritten (left right thr ratio knee : F32) (hw : c.ef.timesWritten = false) :
    execCompProcess i left right thr ratio knee s = .refused .unwrittenCoefficients := by
  simp [execCompProcess, withComp_of_get hc, hw]

theorem execCompProcess_of_written (left right thr ratio knee : F32) (hw : c.ef.timesWritten = true) :
    execCompProcess i left right thr ratio knee s =
      finishComp s i ⟨efProcess c.ef (detect left right)⟩
        (.value (gainFor Config.num (c.ef.level (detect left right)) thr ratio knee)) := by
  simp [execCompProcess, withComp_of_get hc, hw, efProcess]

end

/-- Settles O38: by the mark, the refusal or the follower at its new level for the detection signal, from which the gain
is computed. -/
theorem compProcessAnswersTheGain : Obligations.CompProcessAnswersTheGain :=
  fun i left right thr ratio knee _ => ⟨decode_compProcess i left right thr ratio knee, fun _ hc =>
    ⟨execCompProcess_of_unwritten hc left right thr ratio knee, execCompProcess_of_written hc left right thr ratio knee⟩⟩

/-- Settles O39: `inSoftKnee` and `aboveKnee` are the two tests of rule R223, in its order; the five examples (above a hard
knee, in the middle and at the upper and lower edges of a soft knee, below a hard knee) are closed and evaluated. -/
theorem gainComputerBranches : Obligations.GainComputerBranches :=
  ⟨fun _inDb _thr _ratio _knee => rfl, by decide +kernel⟩

end Sys2Proof.Machine

/-! ### The delay line (rules R240 to R250) -/

namespace Sys2Proof

/-! #### The command words -/

theorem decode_dlConstruct (i : BitVec 8) (maxMs sr a2 a3 a4 : F32) :
    decode ⟨commandWord 0x40 i 0, maxMs, sr, a2, a3, a4⟩ = .ok (.dlConstruct i maxMs sr) := by
  simp [decode_commandWord, decodeOpcode]

theorem decode_dlSetrate (i : BitVec 8) (rate maxMs a2 a3 a4 : F32) :
    decode ⟨commandWord 0x41 i 0, rate, maxMs, a2, a3, a4⟩ = .ok (.dlSetrate i rate maxMs) := by
  simp [decode_commandWord, decodeOpcode]

theorem decode_dlProcess (i : BitVec 8) (input delayMs feedback a3 a4 : F32) :
    decode ⟨commandWord 0x42 i 0, input, delayMs, feedback, a3, a4⟩ = .ok (.dlProcess i input delayMs feedback) := by
  simp [decode_commandWord, decodeOpcode]

theorem decode_dlReset (i : BitVec 8) (a0 a1 a2 a3 a4 : F32) :
    decode ⟨commandWord 0x43 i 0, a0, a1, a2, a3, a4⟩ = .ok (.dlReset i) := by
  simp [decode_commandWord, decodeOpcode]

end Sys2Proof

namespace Sys2Proof.Machine

/-! #### The read position and the cursor (rules R111, R249) -/

theorem delaySamples_le (ms rate : F32) (L : Nat) : delaySamples ms rate L ≤ L - 1 := Nat.min_le_right _ _

theorem readPos_lt {w L d : Nat} (hL : 0 < L) : readPos w L d < L := Nat.mod_lt _ hL

theorem nextPos_lt {w L : Nat} (hL : 0 < L) : nextPos w L < L := Nat.mod_lt _ hL

/-- The read position lies `d` cells behind the cursor, wrapping below cell 0. -/
theorem readPos_eq_ite {w L d : Nat} (hw : w < L) :
    readPos w L d = if d ≤ w then w - d else w + L - d := by
  rw [readPos]
  split
  · rw [Nat.sub_add_comm ‹d ≤ w›, Nat.add_mod_right, Nat.mod_eq_of_lt (by omega)]
  · exact Nat.mod_eq_of_lt (by omega)

theorem readPos_eq_cursor_iff {w L d : Nat} (hw : w < L) (hd : d ≤ L - 1) : readPos w L d = w ↔ d = 0 := by
  rw [readPos_eq_ite hw]
  split <;> omega

theorem nextPos_eq_ite {w L : Nat} (hw : w < L) : nextPos w L = if w = L - 1 then 0 else w + 1 := by
  rw [nextPos]
  split
  · rw [show w + 1 = L by omega, Nat.mod_self]
  · exact Nat.mod_eq_of_lt (by omega)

/-- Settles O48: by whether the delay reaches back below cell 0, and by whether the cursor is in the last cell. -/
theorem readPositionAndCursor : Obligations.ReadPositionAndCursor := by
  intro w L d hw hd
  have hL : 0 < L := Nat.zero_lt_of_lt hw
  exact ⟨rfl, readPos_eq_ite hw, readPos_lt hL, readPos_eq_cursor_iff hw hd, rfl, nextPos_eq_ite hw, nextPos_lt hL⟩

/-! #### The length and the delay in samples (rules R241, R248) -/

theorem f2n_of_isNaN {v : F32} (h : isNaN v = true) : f2n v = 0 := if_pos h

theorem f2n_of_fsign {v : F32} (h : fsign v = true) : f2n v = 0 := by
  rw [f2n, if_pos h, ite_self]

theorem f2n_of_isZero {v : F32} (h : isZero v = true) : f2n v = 0 := by
  have := f2n_eq (isFinite_iff.1 (isFinite_of_isZero h)).1
  rw [units_of_isZero h] at this
  omega

theorem fceil_of_special {x : F32} (h : isNaN x = true ∨ isInf x = true ∨ isZero x = true) : fceil x = x :=
  if_pos (by simpa [or_assoc] using h)

/-- Rounding down keeps the sign, that of a zero too. -/
@[simp] theorem fsign_ffloor (x : F32) : fsign (ffloor x) = fsign x := by
  unfold ffloor
  split
  · rfl
  · exact fsign_pack _ (roundMag_lt _ 1)

/-- A zero times a NaN or an infinity is a NaN. -/
theorem isNaN_fmul_zero_of_not_isFinite {z x : F32} (hz : isZero z = true) (hx : isFinite x = false) :
    isNaN (fmul z x) = true := by
  cases hn : isNaN x with
  | true => exact isNaN_fmul (.inr hn)
  | false =>
    have hi : isInf x = true := by simpa [hn, hx] using isFinite_iff (x := x)
    simp [fmul, hn, hi, hz, (isFinite_iff.1 (isFinite_of_isZero hz)).1]

theorem isZero_fdiv_zero {z x : F32} (hz : isZero z = true) (hx : isFinite x = true) (hx0 : isZero x = false) :
    isZero (fdiv z x) = true := by
  obtain ⟨x1, x2⟩ := isFinite_iff.1 hx
  obtain ⟨z1, z2⟩ := isFinite_iff.1 (isFinite_of_isZero hz)
  have z3 : magUnits z = 0 := magUnits_eq_zero.2 (of_decide_eq_true hz)
  have hq : fdiv z x = fzero (fsign z != fsign x) := by simp [fdiv, fzero, roundMag, x1, x2, hx0, z1, z2, z3]
  rw [hq, isZero, fmag_fzero, decide_eq_true rfl]

/-- A quotient that is no NaN has the sign of its operands, underflow and overflow included. -/
theorem fsign_fdiv {a b : F32} (ha : isNaN a = false) (hb : isFinite b = true) (hb0 : isZero b = false) :
    fsign (fdiv a b) = (fsign a != fsign b) := by
  obtain ⟨b1, b2⟩ := isFinite_iff.1 hb
  cases hi : isInf a
  · simp [fdiv, ha, hi, b1, b2, hb0, fsign_pack _ (roundMag_lt _ _)]
  · simp [fdiv, ha, hi, b1, b2, hb0, finf, fsign_pack _ (show infMag < 2 ^ 31 by decide)]

theorem lit1000_facts : isFinite lit1000 = true ∧ isZero lit1000 = false ∧ fsign lit1000 = false := by decide

/-- A maximal delay of 0.0 makes a line of one sample at any rate: the product is a zero, or a NaN where the rate is not
finite. -/
theorem dlLength_litZero (sr : F32) : dlLength litZero sr = 1 := by
  have hz : isZero litZero = true := rfl
  obtain ⟨l1, l2, -⟩ := lit1000_facts
  suffices h : f2n (fceil (fdiv (fmul litZero sr) lit1000)) = 0 by rw [dlLength, h]
  cases hf : isFinite sr with
  | true =>
    have hq := isZero_fdiv_zero (isZero_fmul_zero hz hf).1 l1 l2
    rw [fceil_of_special (.inr (.inr hq)), f2n_of_isZero hq]
  | false =>
    have hq := isNaN_fdiv (b := lit1000) (.inl (isNaN_fmul_zero_of_not_isFinite hz hf))
    rw [fceil_of_special (.inl hq), f2n_of_isNaN hq]

/-- A negative or NaN product asks for no delay. -/
theorem delaySamples_of_negative_or_isNaN {ms rate : F32} (h : isNaN (fmul ms rate) = true ∨ fsign (fmul ms rate) = true)
    (L : Nat) : delaySamples ms rate L = 0 := by
  obtain ⟨l1, l2, l3⟩ := lit1000_facts
  suffices h0 : f2n (ffloor (fdiv (fmul ms rate) lit1000)) = 0 by rw [delaySamples, h0, Nat.zero_min]
  cases hn : isNaN (fmul ms rate) with
  | true =>
    have hq := isNaN_fdiv (b := lit1000) (.inl hn)
    rw [ffloor_of_special (.inl hq), f2n_of_isNaN hq]
  | false =>
    have hs : fsign (fmul ms rate) = true := h.resolve_left (by simp [hn])
    exact f2n_of_fsign (by rw [fsign_ffloor, fsign_fdiv hn l1 l2, hs, l3, Bool.bne_false])

/-- The requested delays of the worked examples of rule R248, before the clamp to the length. -/
theorem requested_delays_of_examples :
    f2n (ffloor (fdiv (fmul 0x3F800000 0x472C4400) lit1000)) = 44 ∧
    f2n (ffloor (fdiv (fmul 0x40533333 0x447A0000) lit1000)) = 3 ∧
    f2n (ffloor (fdiv (fmul 0x3F7FBE77 0x447A0000) lit1000)) = 0 := by decide +kernel

/-- Settles O47: the bounds and the zero, negative and NaN products by the lemmas above; the examples are evaluated. -/
theorem lengthAndDelayInSamples : Obligations.LengthAndDelayInSamples := by
  obtain ⟨h44, h3, h0⟩ := requested_delays_of_examples
  refine ⟨fun ms sr => ⟨rfl, dlLength_pos ms sr, dlLength_litZero sr⟩,
    fun ms rate L => ⟨rfl, fun _ => delaySamples_le ms rate L, fun h => delaySamples_of_negative_or_isNaN h L, ?_, ?_, ?_⟩,
    by decide +kernel, by decide +kernel⟩
  · rw [delaySamples, h44]
  · rw [delaySamples, h3]
  · rw [delaySamples, h0, Nat.zero_min]

/-! #### The operations on a line -/

theorem DelayLine.read_of_lt {d : DelayLine} {n : Nat} (hc : d.configured = true) (hn : n < d.len) :
    d.read n = some (memRead d.buf n) := DelayLine.read_eq_some.2 ⟨⟨hc, hn⟩, rfl⟩

theorem DelayLine.write_of_lt {d : DelayLine} {n : Nat} (hc : d.configured = true) (hn : n < d.len) (v : F32) :
    d.write n v = some { d with buf := memWrite d.buf n v } := DelayLine.write_eq_some.2 ⟨⟨hc, hn⟩, rfl⟩

theorem DelayLine.tap_lt {d : DelayLine} (hl : 1 ≤ d.len) (delayMs : F32) : d.tap delayMs < d.len := readPos_lt hl

/-- What `DL_SETRATE` can do to a line: reinitialise it, or, only where neither rate nor length changes, leave all but the count
of free choices (rules R245, R246). -/
theorem DelayLine.setRate_cases (d : DelayLine) (i : BitVec 8) (n : Nat) (rate : F32) :
    (∃ e : DelayLine, d.setRate i n rate = e.configure n rate) ∨
      (rate = d.rate ∧ n = d.len ∧ d.setRate i n rate = { d with choices := d.choices + 1 }) := by
  unfold DelayLine.setRate
  split
  case isTrue h =>
    obtain ⟨hr, hn⟩ : rate = d.rate ∧ n = d.len := by simpa [DelayLine.unchangedBy] using h
    simp only [DelayLine.chooseUnchanged]
    split
    · exact .inr ⟨hr, hn, rfl⟩
    · exact .inl ⟨_, rfl⟩
  case isFalse => exact .inl ⟨d, rfl⟩

/-! #### The commands on a line that exists -/

section
variable {s : State} {i : BitVec 8} {d : DelayLine} (hd : s.dl[i.toNat]? = some d)
include hd

theorem execDlConstruct_of_gt (maxMs sr : F32) (h : s.params.dlMaxLen < dlLength maxMs sr) :
    execDlConstruct i maxMs sr s = .refused .overCapacity := by
  rw [execDlConstruct, withDl_of_get hd, if_pos h]

theorem execDlConstruct_of_le (maxMs sr : F32) (h : dlLength maxMs sr ≤ s.params.dlMaxLen) :
    execDlConstruct i maxMs sr s = finishDl s i (d.configure (dlLength maxMs sr) sr) .empty := by
  rw [execDlConstruct, withDl_of_get hd, if_neg (Nat.not_lt.2 h)]

theorem execDlSetrate_of_unconfigured (rate maxMs : F32) (hc : d.configured = false) :
    execDlSetrate i rate maxMs s = .refused .unconfigured := by
  simp [execDlSetrate, withDl_of_get hd, hc]

theorem execDlSetrate_of_gt (rate maxMs : F32) (hc : d.configured = true) (h : s.params.dlMaxLen < dlLength maxMs rate) :
    execDlSetrate i rate maxMs s = .refused .overCapacity := by
  simp [execDlSetrate, withDl_of_get hd, hc, h]

theorem execDlSetrate_of_le (rate maxMs : F32) (hc : d.configured = true) (h : dlLength maxMs rate ≤ s.params.dlMaxLen) :
    execDlSetrate i rate maxMs s = finishDl s i (d.setRate i (dlLength maxMs rate) rate) .empty := by
  simp [execDlSetrate, withDl_of_get hd, hc, Nat.not_lt.2 h]

theorem execDlProcess_of_unconfigured (input delayMs feedback : F32) (hc : d.configured = false) :
    execDlProcess i input delayMs feedback s = .refused .unconfigured := by
  simp [execDlProcess, withDl_of_get hd, hc]

/-- Under rule R35 both accesses are inside the line, so neither faults. -/
theorem execDlProcess_of_configured (input delayMs feedback : F32) (hc : d.configured = true) (hl : 1 ≤ d.len)
    (hw : d.wpos < d.len) :
    execDlProcess i input delayMs feedback s =
      finishDl s i
        (DelayLine.advance
          { d with buf := memWrite d.buf d.wpos (fadd input (fmul (memRead d.buf (d.tap delayMs)) feedback)) })
        (.value (memRead d.buf (d.tap delayMs))) := by
  simp [execDlProcess, withDl_of_get hd, hc, DelayLine.read_of_lt hc (d.tap_lt hl delayMs), DelayLine.write_of_lt hc hw]

theorem execDlReset_of_unconfigured (hc : d.configured = false) : execDlReset i s = .refused .unconfigured := by
  simp [execDlReset, withDl_of_get hd, hc]

theorem execDlReset_of_configured (hc : d.configured = true) : execDlReset i s = finishDl s i d.cleared .empty := by
  simp [execDlReset, withDl_of_get hd, hc]

end

/-- A line command that leaves what it finds, and answers the response that is there, changes nothing. -/
theorem finishDl_finished (s : State) (i : BitVec 8) (d : DelayLine) (r : Response) :
    finishDl ((s.setDl i d).respond r) i d r = .next ((s.setDl i d).respond r) := by
  simp [finishDl, State.setDl, State.respond]

/-- `DL_RESET` twice is `DL_RESET` once (rule R250): clearing a cleared line is no change. -/
theorem execDlReset_again {s : State} {i : BitVec 8} {d : DelayLine} (hd : s.dl[i.toNat]? = some d)
    (hc : d.configured = true) :
    execDlReset i ((s.setDl i d.cleared).respond .empty) = .next ((s.setDl i d.cleared).respond .empty) := by
  have hd' : ((s.setDl i d.cleared).respond .empty).dl[i.toNat]? = some d.cleared := getElem?_set_of_get hd _
  exact (execDlReset_of_configured hd' hc).trans (finishDl_finished s i d.cleared .empty)

/-- Settles O42: by the capacity, the refusal or the configured line, whose memory is the zeroed one. -/
theorem dlConstructZeroesTheLine : Obligations.DlConstructZeroesTheLine :=
  fun i maxMs sr a2 a3 a4 _ => ⟨decode_dlConstruct i maxMs sr a2 a3 a4, fun _ hd =>
    ⟨execDlConstruct_of_gt hd maxMs sr, fun h => ⟨memZeroed, memRead_zeroed, execDlConstruct_of_le hd maxMs sr h⟩⟩⟩

/-- Settles O43: the refusals by the mark and the capacity; otherwise by what `DL_SETRATE` can do to a line. -/
theorem dlSetrateReinitialisesOnChange : Obligations.DlSetrateReinitialisesOnChange := by
  intro i rate maxMs a2 a3 a4 s n
  refine ⟨decode_dlSetrate i rate maxMs a2 a3 a4, fun d hd => ⟨execDlSetrate_of_unconfigured hd rate maxMs,
    execDlSetrate_of_gt hd rate maxMs, fun hc h => ⟨d.setRate i n rate, execDlSetrate_of_le hd rate maxMs hc h, ?_⟩⟩⟩
  obtain ⟨e, he⟩ | ⟨hr, hn, hkept⟩ := d.setRate_cases i n rate
  · rw [he]
    exact ⟨rfl, rfl, rfl, .inl ⟨memRead_zeroed, rfl⟩⟩
  · rw [hkept]
    exact ⟨hc, hn.symm, hr.symm, .inr ⟨hr, hn, rfl, rfl⟩⟩

/-- Settles O44: by the mark, the refusal or the read and the write inside the line. -/
theorem dlProcessReadsThenWrites : Obligations.DlProcessReadsThenWrites :=
  fun i input delayMs feedback a3 a4 _ => ⟨decode_dlProcess i input delayMs feedback a3 a4, fun _ hd =>
    ⟨execDlProcess_of_unconfigured hd input delayMs feedback, execDlProcess_of_configured hd input delayMs feedback⟩⟩

/-- Settles O46: by the mark, the refusal or the cleared line, and the reset again. -/
theorem dlResetZeroesBufferAndCursor : Obligations.DlResetZeroesBufferAndCursor :=
  fun i a0 a1 a2 a3 a4 _ => ⟨decode_dlReset i a0 a1 a2 a3 a4, fun _ hd =>
    ⟨execDlReset_of_unconfigured hd, fun hc => ⟨memZeroed, _, memRead_zeroed, rfl, execDlReset_of_configured hd hc,
      execDlReset_again hd hc⟩⟩⟩

end Sys2Proof.Machine

/-! ### The refusals of a legal command (rules R273, R277) -/

namespace Sys2Proof.Machine

/-- Where rule R277 refuses a legal command and for what reason: a register no command has written, an unconfigured line, or a
length over capacity. The capacity of a `DL_SETRATE` is checked only on a configured line (rule R273). -/
inductive LegalRefusal (s : State) : Instr → Refusal → Prop where
  | bqProcess {n : BitVec 8} {x : F32} {b : Biquad} (hb : s.bq[n.toNat]? = some b) (hw : b.coefWritten = false) :
      LegalRefusal s (.bqProcess n x) .unwrittenCoefficients
  | envProcess {n : BitVec 8} {x : F32} {e : Follower} (he : s.ef[n.toNat]? = some e) (hw : e.timesWritten = false) :
      LegalRefusal s (.envProcess n x) .unwrittenCoefficients
  | compProcess {n : BitVec 8} {l r thr ratio knee : F32} {c : Compressor} (hc : s.comp[n.toNat]? = some c)
      (hw : c.ef.timesWritten = false) : LegalRefusal s (.compProcess n l r thr ratio knee) .unwrittenCoefficients
  | dlProcess {n : BitVec 8} {x ms fb : F32} {d : DelayLine} (hd : s.dl[n.toNat]? = some d) (hc : d.configured = false) :
      LegalRefusal s (.dlProcess n x ms fb) .unconfigured
  | dlReset {n : BitVec 8} {d : DelayLine} (hd : s.dl[n.toNat]? = some d) (hc : d.configured = false) :
      LegalRefusal s (.dlReset n) .unconfigured
  | dlSetrate {n : BitVec 8} {rate ms : F32} {d : DelayLine} (hd : s.dl[n.toNat]? = some d) (hc : d.configured = false) :
      LegalRefusal s (.dlSetrate n rate ms) .unconfigured
  | dlSetrateLength {n : BitVec 8} {rate ms : F32} {d : DelayLine} (hd : s.dl[n.toNat]? = some d)
      (hc : d.configured = true) (hlen : s.params.dlMaxLen < dlLength ms rate) :
      LegalRefusal s (.dlSetrate n rate ms) .overCapacity
  | dlConstructLength {n : BitVec 8} {ms sr : F32} {d : DelayLine} (hd : s.dl[n.toNat]? = some d)
      (hlen : s.params.dlMaxLen < dlLength ms sr) : LegalRefusal s (.dlConstruct n ms sr) .overCapacity

theorem exec_of_legalRefusal {s : State} {i : Instr} {r : Refusal} (h : LegalRefusal s i r) : exec i s = .refused r := by
  cases h with
  | bqProcess hb hw => exact execBqProcess_of_unwritten hb _ hw
  | envProcess he hw => exact execEnvProcess_of_unwritten he _ hw
  | compProcess hc hw => exact execCompProcess_of_unwritten hc _ _ _ _ _ hw
  | dlProcess hd hc => exact execDlProcess_of_unconfigured hd _ _ _ hc
  | dlReset hd hc => exact execDlReset_of_unconfigured hd hc
  | dlSetrate hd hc => exact execDlSetrate_of_unconfigured hd _ _ hc
  | dlSetrateLength hd hc hlen => exact execDlSetrate_of_gt hd _ _ hc hlen
  | dlConstructLength hd hlen => exact execDlConstruct_of_gt hd _ _ hlen

/-! #### A refusal that is not for an illegal command is one of these -/

section
variable {s : State} {i : BitVec 8} {r : Refusal} (hr : r ≠ .illegalCommand)
include hr

theorem get_of_withBq_refused {k : Biquad → Result} (h : withBq s i k = .refused r) :
    ∃ b, s.bq[i.toNat]? = some b ∧ k b = .refused r := (withBq_refused h).resolve_left fun hn => hr hn.2

theorem get_of_withEf_refused {k : Follower → Result} (h : withEf s i k = .refused r) :
    ∃ e, s.ef[i.toNat]? = some e ∧ k e = .refused r := (withEf_refused h).resolve_left fun hn => hr hn.2

theorem get_of_withComp_refused {k : Compressor → Result} (h : withComp s i k = .refused r) :
    ∃ c, s.comp[i.toNat]? = some c ∧ k c = .refused r := (withComp_refused h).resolve_left fun hn => hr hn.2

theorem get_of_withDl_refused {k : DelayLine → Result} (h : withDl s i k = .refused r) :
    ∃ d, s.dl[i.toNat]? = some d ∧ k d = .refused r := (withDl_refused h).resolve_left fun hn => hr hn.2

theorem legalRefusal_of_execBqProcess {x : F32} (h : execBqProcess i x s = .refused r) :
    LegalRefusal s (.bqProcess i x) r := by
  obtain ⟨b, hb, hk⟩ := get_of_withBq_refused hr h
  split at hk
  case isTrue => cases hk
  case isFalse hw => cases hk; exact .bqProcess hb (by simpa using hw)

theorem legalRefusal_of_execEnvProcess {x : F32} (h : execEnvProcess i x s = .refused r) :
    LegalRefusal s (.envProcess i x) r := by
  obtain ⟨e, he, hk⟩ := get_of_withEf_refused hr h
  split at hk
  case isTrue => cases hk
  case isFalse hw => cases hk; exact .envProcess he (by simpa using hw)

theorem legalRefusal_of_execCompProcess {left right thr ratio knee : F32}
    (h : execCompProcess i left right thr ratio knee s = .refused r) :
    LegalRefusal s (.compProcess i left right thr ratio knee) r := by
  obtain ⟨c, hc, hk⟩ := get_of_withComp_refused hr h
  split at hk
  case isTrue => cases hk
  case isFalse hw => cases hk; exact .compProcess hc (by simpa using hw)

theorem legalRefusal_of_execDlConstruct {ms sr : F32} (h : execDlConstruct i ms sr s = .refused r) :
    LegalRefusal s (.dlConstruct i ms sr) r := by
  obtain ⟨d, hd, hk⟩ := get_of_withDl_refused hr h
  split at hk
  case isTrue hlen => cases hk; exact .dlConstructLength hd hlen
  case isFalse => cases hk

theorem legalRefusal_of_execDlSetrate {rate ms : F32} (h : execDlSetrate i rate ms s = .refused r) :
    LegalRefusal s (.dlSetrate i rate ms) r := by
  obtain ⟨d, hd, hk⟩ := get_of_withDl_refused hr h
  split at hk
  case isTrue hc => cases hk; exact .dlSetrate hd (by simpa using hc)
  case isFalse hc =>
    split at hk
    case isTrue hlen => cases hk; exact .dlSetrateLength hd (by simpa using hc) hlen
    case isFalse => cases hk

theorem legalRefusal_of_execDlProcess {x ms fb : F32} (h : execDlProcess i x ms fb s = .refused r) :
    LegalRefusal s (.dlProcess i x ms fb) r := by
  obtain ⟨d, hd, hk⟩ := get_of_withDl_refused hr h
  split at hk
  case isTrue hc => cases hk; exact .dlProcess hd (by simpa using hc)
  case isFalse =>
    -- On a configured line the read and the write either fault or let the command complete.
    split at hk
    · cases hk
    · split at hk <;> cases hk

theorem legalRefusal_of_execDlReset (h : execDlReset i s = .refused r) : LegalRefusal s (.dlReset i) r := by
  obtain ⟨d, hd, hk⟩ := get_of_withDl_refused hr h
  split at hk
  case isTrue hc => cases hk; exact .dlReset hd (by simpa using hc)
  case isFalse => cases hk

/-- Instruction by instruction: the commands that write or reset registers have no check but that of their unit's number. -/
theorem legalRefusal_of_exec {j : Instr} (h : exec j s = .refused r) : LegalRefusal s j r := by
  cases j with
  | coefDeriveLpf | coefDeriveHpf | coefDeriveBpfPeakq | coefDeriveBpf0db | coefDeriveNotch | coefDeriveApf | coefDeriveLp1
  | coefDeriveHp1 | coefDerivePeak | coefDeriveLshelf | coefDeriveHshelf | coefDeriveTilt | coefDeriveLrLp | coefDeriveLrHp
  | coefDeriveBwLp | coefDeriveBwHp | coefDeriveWarmth | coefDeriveBright | coefDerivePresence | coefDeriveAir
  | coefDeriveSubbass | coefDeriveVocal | coefDeriveDcblock | coefDeriveUnity =>
    exact absurd h (coefDerive_ne_refused _ _ _ _ _ _ _)
  | bqUpdateLpf | bqUpdateHpf | bqUpdateBpfPeakq | bqUpdateBpf0db | bqUpdateNotch | bqUpdateApf | bqUpdateLp1 | bqUpdateHp1
  | bqUpdatePeak | bqUpdateLshelf | bqUpdateHshelf | bqUpdateTilt | bqUpdateLrLp | bqUpdateLrHp | bqUpdateBwLp | bqUpdateBwHp
  | bqUpdateWarmth | bqUpdateBright | bqUpdatePresence | bqUpdateAir | bqUpdateSubbass | bqUpdateVocal | bqUpdateDcblock
  | bqUpdateUnity | bqSetcoef | bqReset =>
    obtain ⟨b, -, hk⟩ := get_of_withBq_refused hr h
    cases hk
  | envSettimes | envReset =>
    obtain ⟨e, -, hk⟩ := get_of_withEf_refused hr h
    cases hk
  | compSettimes | compReset =>
    obtain ⟨c, -, hk⟩ := get_of_withComp_refused hr h
    cases hk
  | bqProcess => exact legalRefusal_of_execBqProcess hr h
  | envProcess => exact legalRefusal_of_execEnvProcess hr h
  | compProcess => exact legalRefusal_of_execCompProcess hr h
  | dlConstruct => exact legalRefusal_of_execDlConstruct hr h
  | dlSetrate => exact legalRefusal_of_execDlSetrate hr h
  | dlProcess => exact legalRefusal_of_execDlProcess hr h
  | dlReset => exact legalRefusal_of_execDlReset hr h

/-- Any other reason than an illegal command is given exactly where rule R277 says. -/
theorem exec_refused_iff {j : Instr} : exec j s = .refused r ↔ LegalRefusal s j r :=
  ⟨legalRefusal_of_exec hr, exec_of_legalRefusal⟩

end

/-! #### The reasons one by one -/

theorem LegalRefusal.reason {s : State} {i : Instr} {r : Refusal} (h : LegalRefusal s i r) :
    r = .unwrittenCoefficients ∨ r = .unconfigured ∨ r = .overCapacity := by
  cases h with
  | bqProcess | envProcess | compProcess => exact .inl rfl
  | dlProcess | dlReset | dlSetrate => exact .inr (.inl rfl)
  | dlSetrateLength | dlConstructLength => exact .inr (.inr rfl)

theorem legalRefusal_unwrittenCoefficients_iff {s : State} {i : Instr} :
    LegalRefusal s i .unwrittenCoefficients ↔
      (∃ n x b, i = .bqProcess n x ∧ s.bq[n.toNat]? = some b ∧ b.coefWritten = false) ∨
      (∃ n x e, i = .envProcess n x ∧ s.ef[n.toNat]? = some e ∧ e.timesWritten = false) ∨
      ∃ n l r thr ratio knee c, i = .compProcess n l r thr ratio knee ∧ s.comp[n.toNat]? = some c ∧
        c.ef.timesWritten = false := by
  constructor
  · intro h
    cases h with
    | bqProcess hb hw => exact .inl ⟨_, _, _, rfl, hb, hw⟩
    | envProcess he hw => exact .inr (.inl ⟨_, _, _, rfl, he, hw⟩)
    | compProcess hc hw => exact .inr (.inr ⟨_, _, _, _, _, _, _, rfl, hc, hw⟩)
  · rintro (⟨n, x, b, rfl, hb, hw⟩ | ⟨n, x, e, rfl, he, hw⟩ | ⟨n, l, r, thr, ratio, knee, c, rfl, hc, hw⟩)
    · exact .bqProcess hb hw
    · exact .envProcess he hw
    · exact .compProcess hc hw

theorem legalRefusal_unconfigured_iff {s : State} {i : Instr} :
    LegalRefusal s i .unconfigured ↔
      ∃ n d, s.dl[n.toNat]? = some d ∧ d.configured = false ∧
        ((∃ x ms fb, i = .dlProcess n x ms fb) ∨ i = .dlReset n ∨ ∃ rate ms, i = .dlSetrate n rate ms) := by
  constructor
  · intro h
    cases h with
    | dlProcess hd hc => exact ⟨_, _, hd, hc, .inl ⟨_, _, _, rfl⟩⟩
    | dlReset hd hc => exact ⟨_, _, hd, hc, .inr (.inl rfl)⟩
    | dlSetrate hd hc => exact ⟨_, _, hd, hc, .inr (.inr ⟨_, _, rfl⟩)⟩
  · rintro ⟨n, d, hd, hc, ⟨x, ms, fb, rfl⟩ | rfl | ⟨rate, ms, rfl⟩⟩
    · exact .dlProcess hd hc
    · exact .dlReset hd hc
    · exact .dlSetrate hd hc

/-- A legal `DL_CONSTRUCT` names a line that exists, so its length alone decides. -/
theorem legalRefusal_overCapacity_iff {s : State} {i : Instr} (hwf : i.wellFormed s.counts = true) :
    LegalRefusal s i .overCapacity ↔
      (∃ n ms sr, i = .dlConstruct n ms sr ∧ s.params.dlMaxLen < dlLength ms sr) ∨
      ∃ n rate ms d, i = .dlSetrate n rate ms ∧ s.dl[n.toNat]? = some d ∧ d.configured = true ∧
        s.params.dlMaxLen < dlLength ms rate := by
  constructor
  · intro h
    cases h with
    | dlConstructLength _ hlen => exact .inl ⟨_, _, _, rfl, hlen⟩
    | dlSetrateLength hd hc hlen => exact .inr ⟨_, _, _, _, rfl, hd, hc, hlen⟩
  · rintro (⟨n, ms, sr, rfl, hlen⟩ | ⟨n, rate, ms, d, rfl, hd, hc, hlen⟩)
    · have hn : n.toNat < s.dl.length := of_decide_eq_true hwf
      exact .dlConstructLength (List.getElem?_eq_getElem hn) hlen
    · exact .dlSetrateLength hd hc hlen

/-- Settles O12: illegal by the decoder or the unit's number; any other refusal is one of rule R277's, sorted by its reason. -/
theorem refusalsAreTheFour : Obligations.RefusalsAreTheFour := by
  intro s i
  refine ⟨fun _ _ h => runCommand_of_error h, exec_illegalCommand_iff.2, fun hwf => ⟨fun r h => ?_, ?_, ?_, ?_⟩⟩
  · have hr : r ≠ .illegalCommand := by
      rintro rfl
      exact Bool.false_ne_true ((exec_illegalCommand_iff.1 h).symm.trans hwf)
    exact (legalRefusal_of_exec hr h).reason
  · exact (exec_refused_iff (by nofun)).trans legalRefusal_unwrittenCoefficients_iff
  · exact (exec_refused_iff (by nofun)).trans legalRefusal_unconfigured_iff
  · exact (exec_refused_iff (by nofun)).trans (legalRefusal_overCapacity_iff hwf)

end Sys2Proof.Machine

/-! ### Power-on reset (rule R290): every instance of a unit is the constructed one -/

namespace Sys2Proof.Machine

theorem eq_powerOn_of_mem_bq {n : Counts} {p : Params} {b : Biquad} (hb : b ∈ (State.powerOn n p).bq) :
    b = Biquad.powerOn := List.eq_of_mem_replicate hb

theorem eq_powerOn_of_mem_ef {n : Counts} {p : Params} {e : Follower} (he : e ∈ (State.powerOn n p).ef) :
    e = Follower.powerOn := List.eq_of_mem_replicate he

theorem eq_powerOn_of_mem_comp {n : Counts} {p : Params} {c : Compressor} (hc : c ∈ (State.powerOn n p).comp) :
    c = Compressor.powerOn := List.eq_of_mem_replicate hc

theorem eq_powerOn_of_mem_dl {n : Counts} {p : Params} {d : DelayLine} (hd : d ∈ (State.powerOn n p).dl) :
    d = DelayLine.powerOn := List.eq_of_mem_replicate hd

/-- Settles O6: the reset state is a power-on state, and there every unit is the constructed one, whose cells R290 gives. -/
theorem powerOnValues : Obligations.PowerOnValues := by
  intro s hs
  obtain ⟨n, p, rfl⟩ : ∃ n p, s = State.powerOn n p := hs.elim (fun h => ⟨_, _, h⟩) id
  refine ⟨fun b hb => ?_, fun e he => ?_, fun c hc => ?_, fun d hd => ?_⟩
  · rw [eq_powerOn_of_mem_bq hb]
    exact ⟨rfl, rfl, rfl, rfl, rfl⟩
  · rw [eq_powerOn_of_mem_ef he]
    exact ⟨rfl, rfl⟩
  · rw [eq_powerOn_of_mem_comp hc]
    exact ⟨rfl, rfl⟩
  · rw [eq_powerOn_of_mem_dl hd]
    rfl

end Sys2Proof.Machine

/-! ### Families of instructions: the 24 `COEF_DERIVE` and the 24 `BQ_UPDATE` as one case each -/

namespace Sys2Proof

/-- A property of every instruction, the commands of format T taken together over their filter type (rules R71, R75). -/
theorem Instr.byFamily {motive : Instr → Prop}
    (coefDerive : ∀ t f q g sr, motive (Instr.coefDerive t f q g sr))
    (bqUpdate : ∀ t n f q g sr, motive (Instr.bqUpdate t n f q g sr))
    (bqSetcoef : ∀ n b0 b1 b2 a1 a2, motive (.bqSetcoef n b0 b1 b2 a1 a2))
    (bqProcess : ∀ n x, motive (.bqProcess n x)) (bqReset : ∀ n, motive (.bqReset n))
    (envSettimes : ∀ n am rm sr, motive (.envSettimes n am rm sr))
    (envProcess : ∀ n x, motive (.envProcess n x)) (envReset : ∀ n, motive (.envReset n))
    (compSettimes : ∀ n am rm sr, motive (.compSettimes n am rm sr))
    (compProcess : ∀ n l r thr ratio knee, motive (.compProcess n l r thr ratio knee))
    (compReset : ∀ n, motive (.compReset n))
    (dlConstruct : ∀ n ms sr, motive (.dlConstruct n ms sr)) (dlSetrate : ∀ n rate ms, motive (.dlSetrate n rate ms))
    (dlProcess : ∀ n x ms fb, motive (.dlProcess n x ms fb)) (dlReset : ∀ n, motive (.dlReset n)) (i : Instr) : motive i := by
  cases i with
  | coefDeriveLpf => exact coefDerive .lpf _ _ _ _
  | coefDeriveHpf => exact coefDerive .hpf _ _ _ _
  | coefDeriveBpfPeakq => exact coefDerive .bpfPeakq _ _ _ _
  | coefDeriveBpf0db => exact coefDerive .bpf0db _ _ _ _
  | coefDeriveNotch => exact coefDerive .notch _ _ _ _
  | coefDeriveApf => exact coefDerive .apf _ _ _ _
  | coefDeriveLp1 => exact coefDerive .lp1 _ _ _ _
  | coefDeriveHp1 => exact coefDerive .hp1 _ _ _ _
  | coefDerivePeak => exact coefDerive .peak _ _ _ _
  | coefDeriveLshelf => exact coefDerive .lshelf _ _ _ _
  | coefDeriveHshelf => exact coefDerive .hshelf _ _ _ _
  | coefDeriveTilt => exact coefDerive .tilt _ _ _ _
  | coefDeriveLrLp => exact coefDerive .lrLp _ _ _ _
  | coefDeriveLrHp => exact coefDerive .lrHp _ _ _ _
  | coefDeriveBwLp => exact coefDerive .bwLp _ _ _ _
  | coefDeriveBwHp => exact coefDerive .bwHp _ _ _ _
  | coefDeriveWarmth => exact coefDerive .warmth _ _ _ _
  | coefDeriveBright => exact coefDerive .bright _ _ _ _
  | coefDerivePresence => exact coefDerive .presence _ _ _ _
  | coefDeriveAir => exact coefDerive .air _ _ _ _
  | coefDeriveSubbass => exact coefDerive .subbass _ _ _ _
  | coefDeriveVocal => exact coefDerive .vocal _ _ _ _
  | coefDeriveDcblock => exact coefDerive .dcblock _ _ _ _
  | coefDeriveUnity => exact coefDerive .unity _ _ _ _
  | bqUpdateLpf => exact bqUpdate .lpf _ _ _ _ _
  | bqUpdateHpf => exact bqUpdate .hpf _ _ _ _ _
  | bqUpdateBpfPeakq => exact bqUpdate .bpfPeakq _ _ _ _ _
  | bqUpdateBpf0db => exact bqUpdate .bpf0db _ _ _ _ _
  | bqUpdateNotch => exact bqUpdate .notch _ _ _ _ _
  | bqUpdateApf => exact bqUpdate .apf _ _ _ _ _
  | bqUpdateLp1 => exact bqUpdate .lp1 _ _ _ _ _
  | bqUpdateHp1 => exact bqUpdate .hp1 _ _ _ _ _
  | bqUpdatePeak => exact bqUpdate .peak _ _ _ _ _
  | bqUpdateLshelf => exact bqUpdate .lshelf _ _ _ _ _
  | bqUpdateHshelf => exact bqUpdate .hshelf _ _ _ _ _
  | bqUpdateTilt => exact bqUpdate .tilt _ _ _ _ _
  | bqUpdateLrLp => exact bqUpdate .lrLp _ _ _ _ _
  | bqUpdateLrHp => exact bqUpdate .lrHp _ _ _ _ _
  | bqUpdateBwLp => exact bqUpdate .bwLp _ _ _ _ _
  | bqUpdateBwHp => exact bqUpdate .bwHp _ _ _ _ _
  | bqUpdateWarmth => exact bqUpdate .warmth _ _ _ _ _
  | bqUpdateBright => exact bqUpdate .bright _ _ _ _ _
  | bqUpdatePresence => exact bqUpdate .presence _ _ _ _ _
  | bqUpdateAir => exact bqUpdate .air _ _ _ _ _
  | bqUpdateSubbass => exact bqUpdate .subbass _ _ _ _ _
  | bqUpdateVocal => exact bqUpdate .vocal _ _ _ _ _
  | bqUpdateDcblock => exact bqUpdate .dcblock _ _ _ _ _
  | bqUpdateUnity => exact bqUpdate .unity _ _ _ _ _
  | bqSetcoef => exact bqSetcoef _ _ _ _ _ _
  | bqProcess => exact bqProcess _ _
  | bqReset => exact bqReset _
  | envSettimes => exact envSettimes _ _ _ _
  | envProcess => exact envProcess _ _
  | envReset => exact envReset _
  | compSettimes => exact compSettimes _ _ _ _
  | compProcess => exact compProcess _ _ _ _ _ _
  | compReset => exact compReset _
  | dlConstruct => exact dlConstruct _ _ _
  | dlSetrate => exact dlSetrate _ _ _
  | dlProcess => exact dlProcess _ _ _ _
  | dlReset => exact dlReset _

@[simp] theorem encode_coefDerive (t : FilterType) (f q g sr : F32) :
    encode (Instr.coefDerive t f q g sr) = encodeCoefDerive t f q g sr := by cases t <;> rfl

@[simp] theorem encode_bqUpdate (t : FilterType) (n : BitVec 8) (f q g sr : F32) :
    encode (Instr.bqUpdate t n f q g sr) = encodeBqUpdate t n f q g sr := by cases t <;> rfl

end Sys2Proof

namespace Sys2Proof.Machine

section
variable (t : FilterType) (n : BitVec 8) (f q g sr : F32)

@[simp] theorem operandLanes_coefDerive : operandLanes (Instr.coefDerive t f q g sr) = 4 := by cases t <;> rfl

@[simp] theorem operandLanes_bqUpdate : operandLanes (Instr.bqUpdate t n f q g sr) = 4 := by cases t <;> rfl

@[simp] theorem target_coefDerive : target (Instr.coefDerive t f q g sr) = .none := by cases t <;> rfl

@[simp] theorem target_bqUpdate : target (Instr.bqUpdate t n f q g sr) = .bq n.toNat := by cases t <;> rfl

end

end Sys2Proof.Machine

/-! ### Encoding and decoding (rules R71, R72, R75, R76, R80) -/

namespace Sys2Proof.Machine

/-- Two commands hold the same words in the first `n` operand lanes. -/
def SameLanes (n : Nat) (c c' : Command) : Prop := ∀ k : Fin 5, k.val < n → laneOf c k = laneOf c' k

section
variable {cw cw' : BitVec 32} {a0 a1 a2 a3 a4 b0 b1 b2 b3 b4 : F32}

theorem sameLanes_one :
    SameLanes 1 ⟨cw, a0, a1, a2, a3, a4⟩ ⟨cw', b0, b1, b2, b3, b4⟩ ↔ a0 = b0 := by
  simp [SameLanes, laneOf]

theorem sameLanes_two :
    SameLanes 2 ⟨cw, a0, a1, a2, a3, a4⟩ ⟨cw', b0, b1, b2, b3, b4⟩ ↔ a0 = b0 ∧ a1 = b1 := by
  simp [SameLanes, Fin.forall_fin_succ, laneOf]

theorem sameLanes_three :
    SameLanes 3 ⟨cw, a0, a1, a2, a3, a4⟩ ⟨cw', b0, b1, b2, b3, b4⟩ ↔ a0 = b0 ∧ a1 = b1 ∧ a2 = b2 := by
  simp [SameLanes, Fin.forall_fin_succ, laneOf]

theorem sameLanes_four :
    SameLanes 4 ⟨cw, a0, a1, a2, a3, a4⟩ ⟨cw', b0, b1, b2, b3, b4⟩ ↔ a0 = b0 ∧ a1 = b1 ∧ a2 = b2 ∧ a3 = b3 := by
  simp [SameLanes, Fin.forall_fin_succ, laneOf]

theorem sameLanes_five :
    SameLanes 5 ⟨cw, a0, a1, a2, a3, a4⟩ ⟨cw', b0, b1, b2, b3, b4⟩ ↔ a0 = b0 ∧ a1 = b1 ∧ a2 = b2 ∧ a3 = b3 ∧ a4 = b4 := by
  simp [SameLanes, Fin.forall_fin_succ, laneOf]

end

/-- A command with the command word of an instruction's encoding, and its operands in the lanes it reads, decodes to the
instruction, whatever the other lanes hold (rule R72). -/
theorem decode_of_sameLanes_encode {c : Command} {i : Instr} (hcw : c.cw = (encode i).cw)
    (hl : SameLanes (operandLanes i) c (encode i)) : decode c = .ok i := by
  obtain ⟨cw, a0, a1, a2, a3, a4⟩ := c
  subst hcw
  cases i using Instr.byFamily with
  | coefDerive t f q g sr =>
    rw [operandLanes_coefDerive, encode_coefDerive] at hl
    obtain ⟨rfl, rfl, rfl, rfl⟩ := sameLanes_four.1 hl
    rw [encode_coefDerive]
    exact decode_coefDerive t _ _ _ _ a4
  | bqUpdate t n f q g sr =>
    rw [operandLanes_bqUpdate, encode_bqUpdate] at hl
    obtain ⟨rfl, rfl, rfl, rfl⟩ := sameLanes_four.1 hl
    rw [encode_bqUpdate]
    exact decode_bqUpdate t n _ _ _ _ a4
  | bqSetcoef n =>
    obtain ⟨rfl, rfl, rfl, rfl, rfl⟩ := sameLanes_five.1 hl
    exact decode_bqSetcoef n _ _ _ _ _
  | bqProcess n =>
    obtain rfl := sameLanes_one.1 hl
    exact decode_bqProcess n _ a1 a2 a3 a4
  | bqReset n => exact decode_bqReset n a0 a1 a2 a3 a4
  | envSettimes n =>
    obtain ⟨rfl, rfl, rfl⟩ := sameLanes_three.1 hl
    exact decode_envSettimes n _ _ _ a3 a4
  | envProcess n =>
    obtain rfl := sameLanes_one.1 hl
    exact decode_envProcess n _ a1 a2 a3 a4
  | envReset n => exact decode_envReset n a0 a1 a2 a3 a4
  | compSettimes n =>
    obtain ⟨rfl, rfl, rfl⟩ := sameLanes_three.1 hl
    exact decode_compSettimes n _ _ _ a3 a4
  | compProcess n =>
    obtain ⟨rfl, rfl, rfl, rfl, rfl⟩ := sameLanes_five.1 hl
    exact decode_compProcess n _ _ _ _ _
  | compReset n => exact decode_compReset n a0 a1 a2 a3 a4
  | dlConstruct n =>
    obtain ⟨rfl, rfl⟩ := sameLanes_two.1 hl
    exact decode_dlConstruct n _ _ a2 a3 a4
  | dlSetrate n =>
    obtain ⟨rfl, rfl⟩ := sameLanes_two.1 hl
    exact decode_dlSetrate n _ _ a2 a3 a4
  | dlProcess n =>
    obtain ⟨rfl, rfl, rfl⟩ := sameLanes_three.1 hl
    exact decode_dlProcess n _ _ _ a3 a4
  | dlReset n => exact decode_dlReset n a0 a1 a2 a3 a4

/-- Settles O2: an encoding has its own command word and its own lanes. -/
theorem decodeOfEncode : Obligations.DecodeOfEncode := fun _ => decode_of_sameLanes_encode rfl fun _ _ => rfl

theorem decodePlain_eq_ok {c : Command} {i j : Instr} (h : decodePlain c i = .ok j) : ftypeField c.cw = 0 ∧ i = j := by
  unfold decodePlain at h
  split at h
  · cases h; exact ⟨‹_›, rfl⟩
  · cases h

theorem decodeTyped_eq_ok {c : Command} {mk : FilterType → Instr} {j : Instr} (h : decodeTyped c mk = .ok j) :
    ∃ t : FilterType, ftypeField c.cw = t.code ∧ mk t = j := by
  unfold decodeTyped at h
  split at h
  · cases h; exact ⟨_, (FilterType.code_of_ofCode ‹_›).symm, rfl⟩
  · cases h

theorem decode_eq_ok {c : Command} {i : Instr} (h : decode c = .ok i) : rsvdField c.cw = 0 ∧ decodeOpcode c = .ok i := by
  unfold decode at h
  split at h
  · exact ⟨‹_›, h⟩
  · cases h

/-- What a command decodes to is encoded in its command word and in the lanes the instruction reads. -/
theorem encode_of_decode {c : Command} {i : Instr} (h : decode c = .ok i) :
    (encode i).cw = c.cw ∧ SameLanes (operandLanes i) (encode i) c := by
  obtain ⟨hr, h⟩ := decode_eq_ok h
  have hcw := commandWord_fields hr
  have hop : ∀ {m : Nat}, (opcodeByte c.cw).toNat = m → opcodeByte c.cw = BitVec.ofNat 8 m := fun h => by
    rw [← h, BitVec.ofNat_toNat, BitVec.setWidth_eq]
  simp only [decodeOpcode] at h
  split at h
  case h_1 ho =>
    split at h
    case isTrue hi =>
      obtain ⟨t, ht, rfl⟩ := decodeTyped_eq_ok h
      rw [hop ho, hi, ht] at hcw
      rw [encode_coefDerive, operandLanes_coefDerive]
      exact ⟨hcw, sameLanes_four.2 ⟨rfl, rfl, rfl, rfl⟩⟩
    case isFalse => cases h
  case h_2 ho =>
    obtain ⟨t, ht, rfl⟩ := decodeTyped_eq_ok h
    rw [hop ho, ht] at hcw
    rw [encode_bqUpdate, operandLanes_bqUpdate]
    exact ⟨hcw, sameLanes_four.2 ⟨rfl, rfl, rfl, rfl⟩⟩
  case h_16 => cases h
  -- The thirteen opcodes of format P.
  all_goals
    rename_i ho
    obtain ⟨hf, rfl⟩ := decodePlain_eq_ok h
    rw [hop ho, hf] at hcw
    refine ⟨hcw, ?_⟩
    simp [SameLanes, Fin.forall_fin_succ, operandLanes, encode, laneOf]

/-- Settles O3: the two directions above; the lanes of the encoding are those of the command that decoded. -/
theorem encodeOfDecode : Obligations.EncodeOfDecode := by
  intro c i h
  obtain ⟨hcw, hl⟩ := encode_of_decode h
  exact ⟨hcw, hl, fun c' hcw' hl' =>
    decode_of_sameLanes_encode (hcw'.trans hcw.symm) fun k hk => (hl' k hk).trans (hl k hk).symm⟩

/-- Settles O1: each word is the command word of its opcode, unit number and type. -/
theorem commandWordsOfTheSpecDecode : Obligations.CommandWordsOfTheSpecDecode :=
  fun a0 a1 a2 a3 a4 => ⟨decode_bqProcess 1 a0 a1 a2 a3 a4, decode_bqUpdate .hshelf 0 a0 a1 a2 a3 a4,
    decode_coefDerive .unity a0 a1 a2 a3 a4, decode_dlProcess 1 a0 a1 a2 a3 a4, decode_envSettimes 0 a0 a1 a2 a3 a4,
    decode_compProcess 0 a0 a1 a2 a3 a4, decode_dlReset 1 a0 a1 a2 a3 a4⟩

end Sys2Proof.Machine

/-! ### Steps, and the invariants they keep (rules R5, R20, R35, R51, R270, R271) -/

namespace Sys2Proof.Machine

/-! #### The step and its instruction -/

theorem step_of_port_cons {s : State} {c : Command} {rest : List Command} (h : s.port = c :: rest) :
    step s = runCommand c { s with port := rest } := by simp [step, State.accept, h]

theorem step_of_port_nil {s : State} (h : s.port = []) : step s = .next s := by simp [step, State.accept, h]

theorem decode_of_decodeTableWord {nbits w : Nat} {i : Instr} (h : decodeTableWord nbits w = some i) :
    decode (wordCommand nbits w) = .ok i := by
  unfold decodeTableWord at h
  split at h
  · cases h; assumption
  · cases h

/-- Settles O5: a step takes the first command; a table word is put there. -/
theorem stepRunsTheDecodedInstruction : Obligations.StepRunsTheDecodedInstruction :=
  ⟨fun _ _ _ _ hp hd => (step_of_port_cons hp).trans (runCommand_of_ok hd),
    fun s _ _ _ h => (step_issue s _).trans (runCommand_of_ok (decode_of_decodeTableWord h)), fun _ => step_of_port_nil⟩

/-! #### One relation between the units before and after -/

/-- Two states with the same parameters and as many units of each kind, each unit as before or one step of its kind further. -/
structure UnitsStep (s t : State) : Prop where
  params : t.params = s.params
  bq : List.Forall₂ (Relation.ReflGen BqStep) s.bq t.bq
  ef : List.Forall₂ (Relation.ReflGen EfStep) s.ef t.ef
  comp : List.Forall₂ (Relation.ReflGen fun c c' => EfStep c.ef c'.ef) s.comp t.comp
  dl : List.Forall₂ (Relation.ReflGen (DlStep s.params.dlMaxLen)) s.dl t.dl

section
variable {α : Type} {R : α → α → Prop} {l l' : List α}

theorem forall₂_reflGen_refl (l : List α) : List.Forall₂ (Relation.ReflGen R) l l :=
  List.forall₂_same.2 fun _ _ => .refl

/-- One element of a list taking one step. -/
theorem forall₂_reflGen_set {n : Nat} {x y : α} (h : l[n]? = some x) (hxy : R x y) :
    List.Forall₂ (Relation.ReflGen R) l (l.set n y) := by
  induction l generalizing n with
  | nil => cases h
  | cons a l ih =>
    cases n with
    | zero => cases h; exact .cons (.single hxy) (forall₂_reflGen_refl l)
    | succ n => exact .cons .refl (ih h)

/-- What a step keeps of an element is kept of all. -/
theorem forall_mem_of_forall₂ {P : α → Prop} (h : List.Forall₂ (Relation.ReflGen R) l l')
    (hstep : ∀ {a b}, P a → R a b → P b) (hP : ∀ a ∈ l, P a) : ∀ b ∈ l', P b := by
  induction h with
  | nil => exact hP
  | cons hab _ ih =>
    rw [List.forall_mem_cons] at hP ⊢
    refine ⟨?_, ih hP.2⟩
    cases hab with
    | refl => exact hP.1
    | single hab => exact hstep hP.1 hab

/-- What a step keeps of an element is kept of the one at a position. -/
theorem get_of_forall₂ {P : α → Prop} (h : List.Forall₂ (Relation.ReflGen R) l l')
    (hstep : ∀ {a b}, P a → R a b → P b) {n : Nat} {a : α} (ha : l[n]? = some a) (hP : P a) :
    ∃ b, l'[n]? = some b ∧ P b := by
  induction h generalizing n with
  | nil => cases ha
  | cons hab _ ih =>
    cases n with
    | zero =>
      cases ha
      cases hab with
      | refl => exact ⟨_, rfl, hP⟩
      | single hab => exact ⟨_, rfl, hstep hP hab⟩
    | succ n => exact ih ha

end

theorem UnitsStep.refl (s : State) : UnitsStep s s :=
  ⟨rfl, forall₂_reflGen_refl _, forall₂_reflGen_refl _, forall₂_reflGen_refl _, forall₂_reflGen_refl _⟩

/-- A command that completes moves the one unit it names by one step, and no other. -/
theorem unitsStep_of_exec {i : Instr} {s t : State} (h : exec i s = .next t) : UnitsStep s t := by
  obtain ⟨r, -, ⟨-, rfl⟩ | ⟨n, b, b', -, hb, hs, rfl⟩ | ⟨n, e, e', -, he, hs, rfl⟩ | ⟨n, c, c', -, hc, hs, rfl⟩ |
    ⟨n, d, d', -, hd, hs, rfl⟩⟩ := exec_next h
  · exact { UnitsStep.refl s with }
  · exact { UnitsStep.refl s with bq := forall₂_reflGen_set hb hs }
  · exact { UnitsStep.refl s with ef := forall₂_reflGen_set he hs }
  · exact { UnitsStep.refl s with comp := forall₂_reflGen_set hc hs }
  · exact { UnitsStep.refl s with dl := forall₂_reflGen_set hd hs }

theorem unitsStep_of_step {s t : State} (h : step s = .next t) : UnitsStep s t := by
  obtain ⟨-, rfl⟩ | ⟨c, rest, i, -, -, hi⟩ := step_next h
  · exact .refl t
  · exact { unitsStep_of_exec hi with }

theorem UnitsStep.counts {s t : State} (h : UnitsStep s t) : t.counts = s.counts := by
  rw [State.counts, State.counts, h.bq.length_eq, h.ef.length_eq, h.comp.length_eq, h.dl.length_eq]

/-! #### The invariant -/

/-- The invariant of the machine, unit by unit. -/
theorem State.inv_iff {s : State} :
    s.inv = true ↔ s.counts.inRange = true ∧ Params.inRange s.params = true ∧ (∀ b ∈ s.bq, b.inv = true) ∧
      (∀ e ∈ s.ef, e.inv = true) ∧ (∀ c ∈ s.comp, c.ef.inv = true) ∧
      ∀ d ∈ s.dl, DelayLine.inv s.params.dlMaxLen d = true := by
  simp only [State.inv, Bool.and_eq_true, List.all_eq_true, and_assoc]

/-- Settles O8: each unit's own step keeps its invariant; counts and parameters do not change. -/
theorem stepKeepsTheInvariant : Obligations.StepKeepsTheInvariant := by
  intro s t hs ht
  have h := unitsStep_of_step ht
  obtain ⟨hcounts, hparams, hbq, hef, hcomp, hdl⟩ := State.inv_iff.1 hs
  rw [State.inv_iff, h.counts, h.params]
  exact ⟨hcounts, hparams, forall_mem_of_forall₂ h.bq Biquad.inv_of_step hbq,
    forall_mem_of_forall₂ h.ef Follower.inv_of_step hef, forall_mem_of_forall₂ h.comp Follower.inv_of_step hcomp,
    forall_mem_of_forall₂ h.dl DelayLine.inv_of_step hdl⟩

/-- Settles O7: every unit is the constructed one, which meets its invariant. -/
theorem powerOnMeetsTheInvariant : Obligations.PowerOnMeetsTheInvariant := by
  have h : ∀ (n : Counts) (p : Params), n.inRange = true → Params.inRange p = true → (State.powerOn n p).inv = true := by
    intro n p hn hp
    have hcounts : (State.powerOn n p).counts = n := by simp [State.counts, State.powerOn]
    rw [State.inv_iff, hcounts]
    refine ⟨hn, hp, fun b hb => ?_, fun e he => ?_, fun c hc => ?_, fun d hd => ?_⟩
    · rw [eq_powerOn_of_mem_bq hb]; decide
    · rw [eq_powerOn_of_mem_ef he]; decide
    · rw [eq_powerOn_of_mem_comp hc]; decide
    · rw [eq_powerOn_of_mem_dl hd]; rfl
  exact ⟨h _ _ (by decide) (by decide), h⟩

/-! #### The bounds of a configured line (rule R35) -/

/-- The bounds of rule R35, of a configured line. -/
def DelayLine.InBounds (maxLen : Nat) (d : DelayLine) : Prop :=
  d.configured = true → 1 ≤ d.len ∧ d.len ≤ maxLen ∧ d.wpos < d.len

theorem DelayLine.inBounds_of_step {m : Nat} {d d' : DelayLine} (h : d.InBounds m) (hs : DlStep m d d') : d'.InBounds m := by
  obtain ⟨n, r, h1, h2, rfl⟩ | ⟨hc, i, n, r, h1, h2, rfl⟩ | ⟨hc, -, v, rfl⟩ | ⟨hc, rfl⟩ := hs
  · exact fun _ => ⟨h1, h2, h1⟩
  · obtain ⟨e, he⟩ | ⟨-, -, hkept⟩ := d.setRate_cases i n r
    · rw [he]; exact fun _ => ⟨h1, h2, h1⟩
    · rw [hkept]; exact h
  · obtain ⟨h1, h2, -⟩ := h hc
    exact fun _ => ⟨h1, h2, nextPos_lt h1⟩
  · obtain ⟨h1, h2, -⟩ := h hc
    exact fun _ => ⟨h1, h2, h1⟩

/-- No access reaches a cell at or past `len` (rule R54). -/
theorem DelayLine.read_write_of_ge {d : DelayLine} {n : Nat} (h : d.len ≤ n) (v : F32) :
    d.read n = none ∧ d.write n v = none := by
  simp [DelayLine.read, DelayLine.write, Nat.not_lt.2 h]

/-- Settles O9: each step of a line keeps its bounds; an access past them is not defined. -/
theorem configuredLinesStayInBounds : Obligations.ConfiguredLinesStayInBounds := by
  intro s t hs ht
  have h := unitsStep_of_step ht
  rw [h.params]
  exact ⟨forall_mem_of_forall₂ h.dl DelayLine.inBounds_of_step hs, fun _ _ _ v hn => DelayLine.read_write_of_ge hn v⟩

/-! #### The marks -/

theorem coefWritten_of_step {b b' : Biquad} (h : b.coefWritten = true) (hs : BqStep b b') : b'.coefWritten = true := by
  obtain ⟨c, rfl⟩ | ⟨-, x, rfl⟩ | rfl := hs
  · rfl
  · exact h
  · exact h

theorem timesWritten_of_step {e e' : Follower} (h : e.timesWritten = true) (hs : EfStep e e') : e'.timesWritten = true := by
  obtain ⟨am, rm, sr, rfl⟩ | ⟨-, x, rfl⟩ | rfl := hs
  · rfl
  · rwa [efProcess_timesWritten]
  · exact h

theorem configured_of_step {m : Nat} {d d' : DelayLine} (h : d.configured = true) (hs : DlStep m d d') :
    d'.configured = true := by
  obtain ⟨n, r, -, -, rfl⟩ | ⟨-, i, n, r, -, -, rfl⟩ | ⟨-, -, v, rfl⟩ | ⟨-, rfl⟩ := hs
  · rfl
  · obtain ⟨e, he⟩ | ⟨-, -, hkept⟩ := d.setRate_cases i n r
    · rw [he]; rfl
    · rw [hkept]; exact h
  · exact h
  · exact h

/-- Settles O14: no unit's own step clears its mark. -/
theorem marksAreNeverCleared : Obligations.MarksAreNeverCleared := by
  intro s t ht n
  have h := unitsStep_of_step ht
  exact ⟨fun _ => get_of_forall₂ h.bq coefWritten_of_step, fun _ => get_of_forall₂ h.ef timesWritten_of_step,
    fun _ => get_of_forall₂ h.comp timesWritten_of_step, fun _ => get_of_forall₂ h.dl configured_of_step⟩

/-! #### No fault, and completion -/

/-- Only the accesses of `DL_PROCESS` can fault, and not on a line within its bounds. -/
theorem exec_ne_fault {s : State} (h : s.inv = true) (i : Instr) (r : Fault) : exec i s ≠ .fault r := by
  intro hf
  obtain ⟨-, -, -, -, -, hdl⟩ := State.inv_iff.1 h
  cases i using Instr.byFamily with
  | coefDerive t f q g sr => rw [exec_coefDerive] at hf; cases hf
  | bqUpdate t n f q g sr =>
    rw [exec_bqUpdate] at hf
    obtain ⟨b, -, hk⟩ := withBq_fault hf
    cases hk
  | bqSetcoef | bqReset =>
    obtain ⟨b, -, hk⟩ := withBq_fault hf
    cases hk
  | bqProcess =>
    obtain ⟨b, -, hk⟩ := withBq_fault hf
    split at hk <;> cases hk
  | envSettimes | envReset =>
    obtain ⟨e, -, hk⟩ := withEf_fault hf
    cases hk
  | envProcess =>
    obtain ⟨e, -, hk⟩ := withEf_fault hf
    split at hk <;> cases hk
  | compSettimes | compReset =>
    obtain ⟨c, -, hk⟩ := withComp_fault hf
    cases hk
  | compProcess =>
    obtain ⟨c, -, hk⟩ := withComp_fault hf
    split at hk <;> cases hk
  | dlConstruct | dlReset =>
    obtain ⟨d, -, hk⟩ := withDl_fault hf
    split at hk <;> cases hk
  | dlSetrate =>
    obtain ⟨d, -, hk⟩ := withDl_fault hf
    split at hk
    · cases hk
    · split at hk <;> cases hk
  | dlProcess n x ms fb =>
    obtain ⟨d, hd, -⟩ := withDl_fault hf
    replace hf : execDlProcess n x ms fb s = .fault r := hf
    cases hc : d.configured with
    | false => rw [execDlProcess_of_unconfigured hd _ _ _ hc] at hf; cases hf
    | true =>
      obtain ⟨hl, -, hw, -⟩ := (DelayLine.inv_iff hc).1 (hdl d (List.mem_of_getElem? hd))
      rw [execDlProcess_of_configured hd _ _ _ hc hl hw] at hf
      cases hf

/-- The invariant does not read the port. -/
theorem State.inv_port {s : State} (h : s.inv = true) (rest : List Command) : { s with port := rest }.inv = true := h

/-- Settles O10: a step is a decoded instruction, a refusal of the word, or nothing. -/
theorem noFaultUnderTheInvariant : Obligations.NoFaultUnderTheInvariant := by
  intro s h
  refine ⟨exec_ne_fault h, fun r hf => ?_⟩
  cases hp : s.port with
  | nil =>
    rw [step_of_port_nil hp] at hf; cases hf
  | cons c rest =>
    rw [step_of_port_cons hp] at hf
    cases hd : decode c with
    | error e => rw [runCommand_of_error hd] at hf; cases hf
    | ok i => exact exec_ne_fault (State.inv_port h rest) i r ((runCommand_of_ok hd).symm.trans hf)

/-- A ready instruction meets none of the refusals of rule R277. -/
theorem not_legalRefusal_of_ready {s : State} {i : Instr} {r : Refusal} (h : ready s i = true) : ¬LegalRefusal s i r := by
  intro hl
  cases hl with
  | bqProcess hb hw => simp [ready, hb, hw] at h
  | envProcess he hw => simp [ready, he, hw] at h
  | compProcess hc hw => simp [ready, hc, hw] at h
  | dlProcess hd hc => simp [ready, hd, hc] at h
  | dlReset hd hc => simp [ready, hd, hc] at h
  | dlSetrate hd hc => simp [ready, hd, hc] at h
  | dlSetrateLength hd hc hlen => simp [ready, Nat.not_le.2 hlen] at h
  | dlConstructLength hd hlen => simp [ready, Nat.not_le.2 hlen] at h

theorem response_of_exec {i : Instr} {s t : State} (h : exec i s = .next t) :
    ∃ r, t.response = some r ∧ r.lanes = resultLanes i := by
  obtain ⟨r, hr, ⟨-, rfl⟩ | ⟨_, _, _, -, -, -, rfl⟩ | ⟨_, _, _, -, -, -, rfl⟩ | ⟨_, _, _, -, -, -, rfl⟩ |
    ⟨_, _, _, -, -, -, rfl⟩⟩ := exec_next h <;> exact ⟨r, rfl, hr⟩

/-- Settles O11: no fault under the invariant, no refusal of a legal and ready instruction. -/
theorem legalCommandsComplete : Obligations.LegalCommandsComplete := by
  intro s i hinv hwf hready
  cases hx : exec i s with
  | next t =>
    obtain ⟨r, hr, hlanes⟩ := response_of_exec hx
    exact ⟨t, r, rfl, hr, hlanes⟩
  | fault r => exact absurd hx (exec_ne_fault hinv i r)
  | refused r =>
    by_cases hr : r = .illegalCommand
    · subst hr
      rw [exec_illegalCommand_iff, hwf] at hx
      cases hx
    · exact absurd (legalRefusal_of_exec hr hx) (not_legalRefusal_of_ready hready)

/-! #### The model's choice of one machine (log 4) -/

/-- Settles O60: by the definition of the reset state. -/
theorem resetHasTheSuggestedParameters : Obligations.ResetHasTheSuggestedParameters :=
  ⟨rfl, rfl, rfl, rfl, rfl, rfl, rfl⟩

end Sys2Proof.Machine

/-! ### One command, one unit (rules R5, R20, R279, R292) -/

namespace Sys2Proof.Machine

/-! #### The unit a target names -/

/-- A unit of any kind, in its state. -/
inductive UnitState where
  | bq (b : Biquad)
  | ef (e : Follower)
  | comp (c : Compressor)
  | dl (d : DelayLine)

/-- The unit at a target, if it exists. -/
def State.unitAt (s : State) : Target → Option UnitState
  | .none => none
  | .bq n => s.bq[n]?.map .bq
  | .ef n => s.ef[n]?.map .ef
  | .comp n => s.comp[n]?.map .comp
  | .dl n => s.dl[n]?.map .dl

section
variable {s t : State} {n : Nat}

theorem unitAt_bq_eq : s.unitAt (.bq n) = t.unitAt (.bq n) ↔ s.bq[n]? = t.bq[n]? :=
  (Option.map_injective fun _ _ => UnitState.bq.inj).eq_iff

theorem unitAt_ef_eq : s.unitAt (.ef n) = t.unitAt (.ef n) ↔ s.ef[n]? = t.ef[n]? :=
  (Option.map_injective fun _ _ => UnitState.ef.inj).eq_iff

theorem unitAt_comp_eq : s.unitAt (.comp n) = t.unitAt (.comp n) ↔ s.comp[n]? = t.comp[n]? :=
  (Option.map_injective fun _ _ => UnitState.comp.inj).eq_iff

theorem unitAt_dl_eq : s.unitAt (.dl n) = t.unitAt (.dl n) ↔ s.dl[n]? = t.dl[n]? :=
  (Option.map_injective fun _ _ => UnitState.dl.inj).eq_iff

end

/-- Two states that agree in every unit, the parameters and the port differ at most in the response. -/
theorem State.eq_of_units {s t : State} (hparams : s.params = t.params) (hport : s.port = t.port)
    (hunits : ∀ g, s.unitAt g = t.unitAt g) : { s with response := none } = { t with response := none } := by
  obtain ⟨bq, ef, comp, dl, params, port, response⟩ := s
  obtain ⟨bq', ef', comp', dl', params', port', response'⟩ := t
  obtain rfl : bq = bq' := List.ext_getElem? fun n => unitAt_bq_eq.1 (hunits (.bq n))
  obtain rfl : ef = ef' := List.ext_getElem? fun n => unitAt_ef_eq.1 (hunits (.ef n))
  obtain rfl : comp = comp' := List.ext_getElem? fun n => unitAt_comp_eq.1 (hunits (.comp n))
  obtain rfl : dl = dl' := List.ext_getElem? fun n => unitAt_dl_eq.1 (hunits (.dl n))
  cases hparams
  cases hport
  rfl

/-! #### The frame -/

/-- A command that completes leaves every unit but the one it names, the parameters and the port. -/
theorem frame_of_exec {i : Instr} {s t : State} (h : exec i s = .next t) :
    t.params = s.params ∧ t.port = s.port ∧ ∀ g, target i ≠ g → t.unitAt g = s.unitAt g := by
  obtain ⟨r, -, ⟨-, rfl⟩ | ⟨n, _, b, hg, -, -, rfl⟩ | ⟨n, _, e, hg, -, -, rfl⟩ | ⟨n, _, c, hg, -, -, rfl⟩ |
    ⟨n, _, d, hg, -, -, rfl⟩⟩ := exec_next h
  · exact ⟨rfl, rfl, fun g _ => by cases g <;> rfl⟩
  all_goals
    refine ⟨rfl, rfl, fun g hne => ?_⟩
    rw [hg] at hne
    -- Only a unit of the same kind is in the list that changes, and it is at another place in it.
    cases g <;> simp_all [State.unitAt]

/-- Settles O13: the frame, read for each kind of unit, and the counts. -/
theorem onlyTheNamedInstanceChanges : Obligations.OnlyTheNamedInstanceChanges := by
  intro s t i h
  obtain ⟨hparams, hport, hunits⟩ := frame_of_exec h
  exact ⟨hparams, hport, (unitsStep_of_exec h).counts, fun n hn => unitAt_bq_eq.1 (hunits _ hn),
    fun n hn => unitAt_ef_eq.1 (hunits _ hn), fun n hn => unitAt_comp_eq.1 (hunits _ hn),
    fun n hn => unitAt_dl_eq.1 (hunits _ hn)⟩

/-! #### What an outcome shows at one unit -/

/-- The response of an outcome and the unit at a target after it, if the command completes. -/
def seenAt (g : Target) (o : Result) : Option (Option Response × Option UnitState) :=
  match o with
  | .next t => some (t.response, t.unitAt g)
  | _ => none

theorem next_of_seenAt_eq {g : Target} {t : State} {o : Result} (h : seenAt g (.next t) = seenAt g o) :
    ∃ u, o = .next u ∧ u.response = t.response ∧ u.unitAt g = t.unitAt g := by
  cases o with
  | next u =>
    obtain ⟨hr, hu⟩ := Prod.mk.inj (Option.some.inj h)
    exact ⟨u, rfl, hr.symm, hu.symm⟩
  | fault | refused => cases h

section
variable {s u : State} {n : BitVec 8}

theorem seenAt_finishBq {b : Biquad} (h : s.bq[n.toNat]? = some b) (b' : Biquad) (r : Response) :
    seenAt (.bq n.toNat) (finishBq s n b' r) = some (some r, some (.bq b')) := by
  simp [finishBq, seenAt, State.unitAt, getElem?_set_of_get h]

theorem seenAt_finishEf {e : Follower} (h : s.ef[n.toNat]? = some e) (e' : Follower) (r : Response) :
    seenAt (.ef n.toNat) (finishEf s n e' r) = some (some r, some (.ef e')) := by
  simp [finishEf, seenAt, State.unitAt, getElem?_set_of_get h]

theorem seenAt_finishComp {c : Compressor} (h : s.comp[n.toNat]? = some c) (c' : Compressor) (r : Response) :
    seenAt (.comp n.toNat) (finishComp s n c' r) = some (some r, some (.comp c')) := by
  simp [finishComp, seenAt, State.unitAt, getElem?_set_of_get h]

theorem seenAt_finishDl {d : DelayLine} (h : s.dl[n.toNat]? = some d) (d' : DelayLine) (r : Response) :
    seenAt (.dl n.toNat) (finishDl s n d' r) = some (some r, some (.dl d')) := by
  simp [finishDl, seenAt, State.unitAt, getElem?_set_of_get h]

/-- A stage command shows the same in two states with the same stage, if on each stage it finishes alike or ends alike. -/
theorem seenAt_withBq {k l : Biquad → Result} (hu : s.unitAt (.bq n.toNat) = u.unitAt (.bq n.toNat))
    (hkl : ∀ b, (∃ b' r, k b = finishBq s n b' r ∧ l b = finishBq u n b' r) ∨ k b = l b) :
    seenAt (.bq n.toNat) (withBq s n k) = seenAt (.bq n.toNat) (withBq u n l) := by
  rw [unitAt_bq_eq] at hu
  cases h : s.bq[n.toNat]? with
  | none => simp [withBq, ← hu, h]
  | some b =>
    have h' := hu.symm.trans h
    rw [withBq_of_get h, withBq_of_get h']
    obtain ⟨b', r, hk, hl⟩ | heq := hkl b
    · rw [hk, hl, seenAt_finishBq h, seenAt_finishBq h']
    · rw [heq]

/-- The same for the envelope followers. -/
theorem seenAt_withEf {k l : Follower → Result} (hu : s.unitAt (.ef n.toNat) = u.unitAt (.ef n.toNat))
    (hkl : ∀ e, (∃ e' r, k e = finishEf s n e' r ∧ l e = finishEf u n e' r) ∨ k e = l e) :
    seenAt (.ef n.toNat) (withEf s n k) = seenAt (.ef n.toNat) (withEf u n l) := by
  rw [unitAt_ef_eq] at hu
  cases h : s.ef[n.toNat]? with
  | none => simp [withEf, ← hu, h]
  | some e =>
    have h' := hu.symm.trans h
    rw [withEf_of_get h, withEf_of_get h']
    obtain ⟨e', r, hk, hl⟩ | heq := hkl e
    · rw [hk, hl, seenAt_finishEf h, seenAt_finishEf h']
    · rw [heq]

/-- The same for the compressors. -/
theorem seenAt_withComp {k l : Compressor → Result} (hu : s.unitAt (.comp n.toNat) = u.unitAt (.comp n.toNat))
    (hkl : ∀ c, (∃ c' r, k c = finishComp s n c' r ∧ l c = finishComp u n c' r) ∨ k c = l c) :
    seenAt (.comp n.toNat) (withComp s n k) = seenAt (.comp n.toNat) (withComp u n l) := by
  rw [unitAt_comp_eq] at hu
  cases h : s.comp[n.toNat]? with
  | none => simp [withComp, ← hu, h]
  | some c =>
    have h' := hu.symm.trans h
    rw [withComp_of_get h, withComp_of_get h']
    obtain ⟨c', r, hk, hl⟩ | heq := hkl c
    · rw [hk, hl, seenAt_finishComp h, seenAt_finishComp h']
    · rw [heq]

/-- The same for the delay lines. -/
theorem seenAt_withDl {k l : DelayLine → Result} (hu : s.unitAt (.dl n.toNat) = u.unitAt (.dl n.toNat))
    (hkl : ∀ d, (∃ d' r, k d = finishDl s n d' r ∧ l d = finishDl u n d' r) ∨ k d = l d) :
    seenAt (.dl n.toNat) (withDl s n k) = seenAt (.dl n.toNat) (withDl u n l) := by
  rw [unitAt_dl_eq] at hu
  cases h : s.dl[n.toNat]? with
  | none => simp [withDl, ← hu, h]
  | some d =>
    have h' := hu.symm.trans h
    rw [withDl_of_get h, withDl_of_get h']
    obtain ⟨d', r, hk, hl⟩ | heq := hkl d
    · rw [hk, hl, seenAt_finishDl h, seenAt_finishDl h']
    · rw [heq]

end

/-! #### A command depends on its unit and the parameters alone -/

/-- What a command answers, and what it leaves in its unit, depends on that unit, the operands and the parameters alone. -/
theorem seenAt_exec {s u : State} {i : Instr} (hp : s.params = u.params)
    (hu : s.unitAt (target i) = u.unitAt (target i)) : seenAt (target i) (exec i s) = seenAt (target i) (exec i u) := by
  cases i using Instr.byFamily with
  | coefDerive t f q g sr => simp [exec_coefDerive, coefDerive, seenAt, State.unitAt, hp]
  | bqUpdate t n f q g sr =>
    rw [target_bqUpdate] at hu ⊢
    rw [exec_bqUpdate, exec_bqUpdate]
    exact seenAt_withBq hu fun b => .inl ⟨_, _, rfl, by rw [hp]⟩
  | bqSetcoef | bqReset => exact seenAt_withBq hu fun b => .inl ⟨_, _, rfl, rfl⟩
  | bqProcess =>
    refine seenAt_withBq hu fun b => ?_
    split
    · exact .inl ⟨_, _, rfl, rfl⟩
    · exact .inr rfl
  | envSettimes | envReset => exact seenAt_withEf hu fun e => .inl ⟨_, _, rfl, rfl⟩
  | envProcess =>
    refine seenAt_withEf hu fun e => ?_
    split
    · exact .inl ⟨_, _, rfl, rfl⟩
    · exact .inr rfl
  | compSettimes | compReset => exact seenAt_withComp hu fun c => .inl ⟨_, _, rfl, rfl⟩
  | compProcess =>
    refine seenAt_withComp hu fun c => ?_
    split
    · exact .inl ⟨_, _, rfl, rfl⟩
    · exact .inr rfl
  | dlConstruct =>
    refine seenAt_withDl hu fun d => ?_
    rw [hp]
    split
    · exact .inr rfl
    · exact .inl ⟨_, _, rfl, rfl⟩
  | dlSetrate =>
    refine seenAt_withDl hu fun d => ?_
    rw [hp]
    split
    · exact .inr rfl
    · split
      · exact .inr rfl
      · exact .inl ⟨_, _, rfl, rfl⟩
  | dlProcess =>
    refine seenAt_withDl hu fun d => ?_
    split
    · exact .inr rfl
    · split
      · exact .inr rfl
      · split
        · exact .inr rfl
        · exact .inl ⟨_, _, rfl, rfl⟩
  | dlReset =>
    refine seenAt_withDl hu fun d => ?_
    split
    · exact .inr rfl
    · exact .inl ⟨_, _, rfl, rfl⟩

/-- A command that completes does so in every state with the same parameters and the same unit, alike. -/
theorem exec_next_of_agree {s u s' : State} {i : Instr} (hp : s.params = u.params)
    (hu : s.unitAt (target i) = u.unitAt (target i)) (h : exec i s = .next s') :
    ∃ u', exec i u = .next u' ∧ u'.response = s'.response ∧ u'.unitAt (target i) = s'.unitAt (target i) :=
  next_of_seenAt_eq (h ▸ seenAt_exec hp hu)

/-- Settles O16: the hypotheses say that the two states hold the same unit at the target. -/
theorem commandsReadOnlyTheirInstance : Obligations.CommandsReadOnlyTheirInstance := by
  intro s u s' i hp hbq hef hcomp hdl h
  have hu : s.unitAt (target i) = u.unitAt (target i) := by
    cases hg : target i with
    | none => rfl
    | bq n => exact unitAt_bq_eq.2 (hbq n hg)
    | ef n => exact unitAt_ef_eq.2 (hef n hg)
    | comp n => exact unitAt_comp_eq.2 (hcomp n hg)
    | dl n => exact unitAt_dl_eq.2 (hdl n hg)
  obtain ⟨u', hu', hr, hunit⟩ := exec_next_of_agree hp hu h
  exact ⟨u', hu', hr, fun n hg => unitAt_bq_eq.1 (hg ▸ hunit), fun n hg => unitAt_ef_eq.1 (hg ▸ hunit),
    fun n hg => unitAt_comp_eq.1 (hg ▸ hunit), fun n hg => unitAt_dl_eq.1 (hg ▸ hunit)⟩

/-! #### Commands on different units -/

/-- The frame at a target that may also name no unit: then there is none to change. -/
theorem unitAt_of_frame {i : Instr} {s t : State} {g : Target} (h : exec i s = .next t) (hg : g = .none ∨ target i ≠ g) :
    t.unitAt g = s.unitAt g := by
  obtain rfl | hne := hg
  · rfl
  · exact (frame_of_exec h).2.2 g hne

/-- Settles O15: each command finds its unit as it was, so it does there the same in either order; every other unit is as before
both. -/
theorem independentCommandsCommute : Obligations.IndependentCommandsCommute := by
  intro s s1 s12 i j hij hi hj
  obtain ⟨hp1, hport1, hframe1⟩ := frame_of_exec hi
  obtain ⟨hp12, hport12, hframe12⟩ := frame_of_exec hj
  have hji : target j = .none ∨ target i ≠ target j := by
    refine hij.elim (fun h => ?_) .inr
    rw [h]
    exact (eq_or_ne (target j) .none).imp id Ne.symm
  obtain ⟨s2, h2, hr2, hu2⟩ := exec_next_of_agree hp1 (unitAt_of_frame hi hji) hj
  obtain ⟨hp2, hport2, hframe2⟩ := frame_of_exec h2
  obtain ⟨s21, h21, hr21, hu21⟩ :=
    exec_next_of_agree hp2.symm (unitAt_of_frame h2 (hij.imp id Ne.symm)).symm hi
  obtain ⟨hp21, hport21, hframe21⟩ := frame_of_exec h21
  refine ⟨s2, s21, h2, h21, hr21.symm, hr2.symm, State.eq_of_units (by rw [hp12, hp1, hp21, hp2])
    (by rw [hport12, hport1, hport21, hport2]) fun g => ?_⟩
  by_cases hgi : target i = g
  · subst hgi
    rw [hu21, unitAt_of_frame hj (hij.imp id Ne.symm)]
  · by_cases hgj : target j = g
    · subst hgj
      rw [hframe21 _ hgi, hu2]
    · rw [hframe12 _ hgj, hframe1 _ hgi, hframe21 _ hgi, hframe2 _ hgj]

/-! #### Sequences of commands on one unit (rule R292) -/

/-- Two states with the same parameters and the same unit answer every sequence of commands on it alike. -/
theorem responses_of_agree {g : Target} {is : List Instr} (his : ∀ j ∈ is, target j = g) {s u : State}
    (hp : s.params = u.params) (hu : s.unitAt g = u.unitAt g) : responses is s = responses is u := by
  induction is generalizing s u with
  | nil => rfl
  | cons i is ih =>
    rw [List.forall_mem_cons] at his
    obtain ⟨rfl, his⟩ := his
    have hseen := seenAt_exec hp hu
    cases hs : exec i s with
    | next s' =>
      obtain ⟨u', hu', hr, hunit⟩ := exec_next_of_agree hp hu hs
      have hp' : s'.params = u'.params := by rw [(frame_of_exec hs).1, (frame_of_exec hu').1, hp]
      simp only [responses, hs, hu', hr, ih his hp' hunit.symm]
    | fault | refused =>
      -- The other state's command does not complete either.
      cases hu' : exec i u with
      | next => rw [hs, hu'] at hseen; cases hseen
      | fault | refused => simp only [responses, hs, hu']

/-- Settles O35: a reset leaves the unit as power-on made it, but for the registers that the fresh unit is given too. -/
theorem resetInstanceBehavesAsFresh : Obligations.ResetInstanceBehavesAsFresh := by
  intro i s t u is hp
  refine ⟨fun b hb h hu his => ?_, fun e he h hu his => ?_, fun c hc h hu his => ?_, fun d hd h hu his => ?_⟩ <;>
    refine responses_of_agree his ((frame_of_exec h).1.trans hp) ?_
  · cases (execBqReset_of_get hb).symm.trans h
    exact unitAt_bq_eq.2 ((getElem?_set_of_get hb _).trans hu.symm)
  · cases (execEnvReset_of_get he).symm.trans h
    exact unitAt_ef_eq.2 ((getElem?_set_of_get he _).trans hu.symm)
  · cases (execCompReset_of_get hc).symm.trans h
    exact unitAt_comp_eq.2 ((getElem?_set_of_get hc _).trans hu.symm)
  · cases hconf : d.configured with
    | false => cases (execDlReset_of_unconfigured hd hconf).symm.trans h
    | true =>
      cases (execDlReset_of_configured hd hconf).symm.trans h
      have hfresh : d.cleared = { DelayLine.powerOn.configure d.len d.rate with choices := d.choices } := by
        rw [DelayLine.cleared, DelayLine.configure, hconf]
      exact unitAt_dl_eq.2 ((getElem?_set_of_get hd _).trans (hfresh ▸ hu.symm))

end Sys2Proof.Machine

/-! ### The operations of rule R101: special values and correct rounding -/

namespace Sys2Proof.Machine

/-! #### Special values -/

@[simp] theorem roundMag_zero (den : Nat) : roundMag 0 den = 0 := by simp [roundMag]

theorem isNaN_of_isInf {x : F32} (h : isInf x = true) : isNaN x = false := (not_isNaN_isZero_of_isInf h).1

theorem isNaN_of_isZero {x : F32} (h : isZero x = true) : isNaN x = false := (isFinite_iff.1 (isFinite_of_isZero h)).1

theorem isInf_of_isZero {x : F32} (h : isZero x = true) : isInf x = false := (isFinite_iff.1 (isFinite_of_isZero h)).2

theorem isNaN_fdiv_zero_zero {a b : F32} (ha : isZero a = true) (hb : isZero b = true) : isNaN (fdiv a b) = true := by
  simp [fdiv, isNaN_of_isZero ha, isNaN_of_isZero hb, ha, hb]

/-- Settles O50: each operation tests for NaNs first, then for infinities and zeros. -/
theorem specialValues : Obligations.SpecialValues := by
  intro a b
  refine ⟨fun h => ⟨isNaN_fadd h, isNaN_fsub h, isNaN_fmul h, isNaN_fdiv h⟩, fun ha hb => ?_, fun ha hb => ?_,
    isNaN_fdiv_zero_zero, fun ha ha0 hb => ?_⟩
  · have na := isNaN_of_isInf ha
    have nb := isNaN_of_isInf hb
    refine ⟨?_, ?_, by simp [fdiv, na, nb, ha, hb]⟩
    · by_cases hs : fsign a = fsign b <;> simp [fadd, na, nb, ha, hb, hs]
    · by_cases hs : fsign a = fsign b <;> simp [fsub, na, nb, ha, hb, hs]
  · have na := isNaN_of_isZero ha
    have nb := isNaN_of_isInf hb
    exact ⟨by simp [fmul, na, nb, ha, hb], by simp [fmul, na, nb, ha, hb]⟩
  · obtain ⟨na, ia⟩ := isFinite_iff.1 ha
    simp [fdiv, na, ia, ha0, isNaN_of_isZero hb, isInf_of_isZero hb, hb]

/-! #### Sums and differences -/

section
variable {a b : F32} (ha : isFinite a = true) (hb : isFinite b = true)
include ha hb

theorem fadd_of_isFinite : fadd a b = faddFinite a b := by
  obtain ⟨na, ia⟩ := isFinite_iff.1 ha
  obtain ⟨nb, ib⟩ := isFinite_iff.1 hb
  simp [fadd, na, ia, nb, ib]

/-- A difference of finite values is the sum with the sign flipped. -/
theorem fsub_of_isFinite : fsub a b = faddFinite a (fneg b) := by
  obtain ⟨na, ia⟩ := isFinite_iff.1 ha
  obtain ⟨nb, ib⟩ := isFinite_iff.1 hb
  simp [fsub, na, ia, nb, ib]

end

theorem faddFinite_of_sum_zero {a b : F32} (h : units a + units b = 0) : faddFinite a b = fzero (fsign a && fsign b) :=
  if_pos h

/-- The finite sum is the exact one rounded; an exact zero is rounded to either zero. -/
theorem rounded_faddFinite (a b : F32) : Rounded (units a + units b) 1 (faddFinite a b) := by
  by_cases h : units a + units b = 0
  · rw [faddFinite_of_sum_zero h, h, fzero, ← roundMag_zero 1]
    exact rounded_pack 0 Nat.one_pos _ fun h0 => absurd rfl h0
  · rw [faddFinite, if_neg h]
    exact rounded_pack _ Nat.one_pos _ fun _ => rfl

/-- Settles O51: both are the finite sum, the difference with the second sign flipped. -/
theorem sumsAreCorrectlyRounded : Obligations.SumsAreCorrectlyRounded := by
  intro a b ha hb
  rw [fadd_of_isFinite ha hb, fsub_of_isFinite ha hb]
  have hsub : units a - units b = units a + units (fneg b) := by rw [units_fneg, sub_eq_add_neg]
  refine ⟨rounded_faddFinite a b, hsub ▸ rounded_faddFinite a (fneg b), faddFinite_of_sum_zero, fun h => ?_⟩
  rw [faddFinite_of_sum_zero (by rw [units_fneg, h, add_neg_cancel]), fsign_fneg]

/-! #### Products and quotients -/

/-- The sign bit as a factor. -/
def signFactor (s : Bool) : Int := if s then -1 else 1

theorem units_eq_signFactor_mul (x : F32) : units x = signFactor (fsign x) * magUnits x := by
  unfold units signFactor
  split <;> simp

theorem signFactor_mul (s t : Bool) : signFactor s * signFactor t = signFactor (s != t) := by
  cases s <;> cases t <;> rfl

/-- A magnitude with a sign, rounded and packed with that sign, is correctly rounded. -/
theorem rounded_pack_signed (s : Bool) (n : Nat) {den : Nat} (hd : 0 < den) :
    Rounded (signFactor s * n) den (pack s (roundMag n den)) := by
  have habs : (signFactor s * n).natAbs = n := by cases s <;> simp [signFactor]
  have h := rounded_pack (signFactor s * n) hd s fun hne => by
    cases s <;> simp [signFactor] at hne ⊢
    omega
  rwa [habs] at h

theorem fmul_of_isFinite {a b : F32} (ha : isFinite a = true) (hb : isFinite b = true) :
    fmul a b = pack (fsign a != fsign b) (roundMag (magUnits a * magUnits b) (2 ^ 149)) := by
  obtain ⟨na, ia⟩ := isFinite_iff.1 ha
  obtain ⟨nb, ib⟩ := isFinite_iff.1 hb
  simp [fmul, na, ia, nb, ib]

theorem fdiv_of_isFinite {a b : F32} (ha : isFinite a = true) (hb : isFinite b = true) (hb0 : isZero b = false) :
    fdiv a b = pack (fsign a != fsign b) (roundMag (magUnits a * 2 ^ 149) (magUnits b)) := by
  obtain ⟨na, ia⟩ := isFinite_iff.1 ha
  obtain ⟨nb, ib⟩ := isFinite_iff.1 hb
  simp [fdiv, na, ia, nb, ib, hb0]

/-- Settles O52: the exact product has the product of the signs and of the magnitudes. -/
theorem productsAreCorrectlyRounded : Obligations.ProductsAreCorrectlyRounded := by
  intro a b ha hb
  have hexact : units a * units b = signFactor (fsign a != fsign b) * (magUnits a * magUnits b : Nat) := by
    rw [units_eq_signFactor_mul a, units_eq_signFactor_mul b, ← signFactor_mul]
    push_cast
    ring
  rw [fmul_of_isFinite ha hb, hexact]
  exact ⟨rounded_pack_signed _ _ (Nat.two_pow_pos 149), fsign_pack _ (roundMag_lt _ _)⟩

/-- Settles O53: the exact quotient has the product of the signs and the quotient of the magnitudes. -/
theorem quotientsAreCorrectlyRounded : Obligations.QuotientsAreCorrectlyRounded := by
  intro a b ha hb hb0
  have hexact : (if fsign b then -1 else 1) * units a * 2 ^ 149 =
      signFactor (fsign a != fsign b) * (magUnits a * 2 ^ 149 : Nat) := by
    rw [units_eq_signFactor_mul a, ← signFactor_mul]
    simp only [signFactor]
    push_cast
    ring
  rw [fdiv_of_isFinite ha hb hb0, hexact]
  exact ⟨rounded_pack_signed _ _ (Nat.pos_of_ne_zero (isZero_eq_false_iff.1 hb0)), fsign_pack _ (roundMag_lt _ _)⟩

end Sys2Proof.Machine

/-! ### The coefficient engine: the frequency clamp, the gain floor, the all-pass, the lanes not read (rules R131, R141, R160) -/

namespace Sys2Proof.Machine

/-! #### Values and patterns -/

/-- A value that is not zero has one pattern. -/
theorem eq_of_units_eq {a b : F32} (h : units a = units b) (h0 : units a ≠ 0) : a = b := by
  refine eq_of_fields ?_ (unitsOfMag_strictMono.injective ?_)
  · rw [fsign_of_units h0, fsign_of_units (h ▸ h0), h]
  · exact_mod_cast (abs_units a).symm.trans ((congrArg abs h).trans (abs_units b))

theorem fmax_of_isNaN_left {a b : F32} (ha : isNaN a = true) (hb : isNaN b = false) : fmax a b = b := by simp [fmax, ha, hb]

theorem fmax_of_isNaN_right {a b : F32} (ha : isNaN a = false) (hb : isNaN b = true) : fmax a b = a := by simp [fmax, ha, hb]

theorem fmin_of_isNaN_right {a b : F32} (ha : isNaN a = false) (hb : isNaN b = true) : fmin a b = a := by simp [fmin, ha, hb]

theorem units_litOne_pos : 0 < units litOne := by
  have h : units litOne = 2 ^ 149 := by simp [units, one_facts]
  rw [h]
  exact Int.pow_pos (by decide)

/-! #### The frequency clamp -/

/-- The lower bound of the clamp: at least 1.0 and no NaN, whatever the frequency; 1.0 for a NaN. -/
theorem fmax_litOne (f : F32) :
    isNaN (fmax f litOne) = false ∧ units litOne ≤ units (fmax f litOne) ∧ (isNaN f = true → fmax f litOne = litOne) := by
  have h1 : isNaN litOne = false := one_facts.1
  cases hf : isNaN f with
  | true =>
    have h := fmax_of_isNaN_left hf h1
    rw [h]
    exact ⟨h1, le_rfl, fun _ => rfl⟩
  | false =>
    obtain ⟨h, hle⟩ | ⟨h, -⟩ := fmax_cases hf h1
    · rw [h]; exact ⟨hf, hle, nofun⟩
    · rw [h]; exact ⟨h1, le_rfl, nofun⟩

theorem clampf_of_contract {f sr : F32} (h : fle litOne (fmul lit0p499 sr) = true) :
    fle litOne (clampf f sr) = true ∧ fle (clampf f sr) (fmul lit0p499 sr) = true ∧ (isNaN f = true → clampf f sr = litOne) := by
  obtain ⟨h1, hhi, hle⟩ := fle_iff.1 h
  obtain ⟨hn, hlo, hnan⟩ := fmax_litOne f
  obtain ⟨hc, hmin⟩ | ⟨hc, hmin⟩ := fmin_cases hn hhi
  · rw [clampf, hc, fle_iff, fle_iff]
    exact ⟨⟨h1, hn, hlo⟩, ⟨hn, hhi, hmin⟩, hnan⟩
  · rw [clampf, hc]
    refine ⟨h, fle_iff.2 ⟨hhi, hhi, le_rfl⟩, fun hf => ?_⟩
    rw [hnan hf] at hmin
    exact (eq_of_units_eq (le_antisymm hle hmin) units_litOne_pos.ne').symm

theorem isFinite_lit0p499 : isFinite lit0p499 = true := by decide

theorem isFinite_litTwoPi : isFinite litTwoPi = true := by decide

/-- A zero rate clamps every frequency to a zero, and ω0 is 0/0. -/
theorem clampf_of_zero_rate {f sr : F32} (h : isZero sr = true) :
    isZero (clampf f sr) = true ∧ isNaN (omega (clampf f sr) sr) = true := by
  have hz := (isZero_fmul_zero h isFinite_lit0p499).2
  obtain ⟨hn, hlo, -⟩ := fmax_litOne f
  have hclamp : isZero (clampf f sr) = true := by
    obtain ⟨-, hmin⟩ | ⟨hc, -⟩ := fmin_cases hn (isNaN_of_isZero hz)
    · have := units_litOne_pos
      rw [units_of_isZero hz] at hmin
      omega
    · rwa [clampf, hc]
  exact ⟨hclamp, isNaN_fdiv_zero_zero (isZero_fmul_zero hclamp isFinite_litTwoPi).2 h⟩

/-- Settles O20: which bound the clamp takes, by the rate. -/
theorem frequencyClampBounds : Obligations.FrequencyClampBounds := by
  intro f sr
  refine ⟨fun _ h => clampf_of_contract h, fun h => clampf_of_zero_rate h, fun h => ⟨?_, isNaN_fdiv (.inr h)⟩⟩
  exact fmin_of_isNaN_right (fmax_litOne f).1 (isNaN_fmul (.inr h))

/-! #### The filter types -/

/-- Settles O27: the numerator is the denominator's mirror image, and `b2` is a0r over itself. -/
theorem allPassCoefficientsPair : Obligations.AllPassCoefficientsPair :=
  fun _ _ _ _ _ _ _ => ⟨rfl, rfl, fdiv_self⟩

section
variable {P : Params} {N : Numerics} {tilt : TiltArgs → RawCoefs} {t : FilterType} {f q g sr : F32}

theorem derive_of_q_unread (v : F32) (ht : t ∉ [.lpf, .hpf, .bpfPeakq, .bpf0db, .notch, .apf, .peak, .lshelf, .hshelf, .tilt]) :
    derive P N tilt t f q g sr = derive P N tilt t f v g sr := by
  cases t with
  | lpf | hpf | bpfPeakq | bpf0db | notch | apf | peak | lshelf | hshelf | tilt => exact absurd (by decide) ht
  | lp1 | hp1 | lrLp | lrHp | bwLp | bwHp | warmth | bright | presence | air | subbass | vocal | dcblock | unity => rfl

theorem derive_of_gain_unread (v : F32)
    (ht : t ∉ [.peak, .lshelf, .hshelf, .tilt, .warmth, .bright, .presence, .air, .subbass, .vocal]) :
    derive P N tilt t f q g sr = derive P N tilt t f q v sr := by
  cases t with
  | peak | lshelf | hshelf | tilt | warmth | bright | presence | air | subbass | vocal => exact absurd (by decide) ht
  | lpf | hpf | bpfPeakq | bpf0db | notch | apf | lp1 | hp1 | lrLp | lrHp | bwLp | bwHp | dcblock | unity => rfl

theorem derive_of_frequency_unread (v : F32) (ht : t ∈ [.dcblock, .unity]) :
    derive P N tilt t f q g sr = derive P N tilt t v q g sr := by
  obtain rfl | rfl : t = .dcblock ∨ t = .unity := by simpa using ht
  · rfl
  · rfl

end

/-- Settles O28: lane by lane, and UNITY by definition. -/
theorem unreadLanesHaveNoInfluence : Obligations.UnreadLanesHaveNoInfluence :=
  fun _ _ _ _ _ _ _ _ v =>
    ⟨derive_of_q_unread v, derive_of_gain_unread v, derive_of_frequency_unread v, fun ht => ht ▸ rfl⟩

theorem litThree_facts : isNaN litThree = false ∧ units litThree ≠ 0 := by decide +kernel

theorem fmax_litThree_of_le {g : F32} (h : isNaN g = true ∨ fle g litThree = true) : fmax g litThree = litThree := by
  obtain ⟨h3, h0⟩ := litThree_facts
  obtain hg | hle := h
  · exact fmax_of_isNaN_left hg h3
  · obtain ⟨hg, -, hle⟩ := fle_iff.1 hle
    obtain ⟨h, hge⟩ | ⟨h, -⟩ := fmax_cases hg h3
    · rw [h, eq_of_units_eq (le_antisymm hge hle) h0]
    · exact h

theorem fmax_litThree_of_gt {g : F32} (h : fgt g litThree = true) : fmax g litThree = g := by
  obtain ⟨h3, hg, hlt⟩ := flt_iff.1 h
  obtain ⟨h, -⟩ | ⟨-, hle⟩ := fmax_cases hg h3
  · exact h
  · omega

/-- A character type reads its gain through the floor alone (41, section 7). -/
theorem derive_character_congr {P : Params} {N : Numerics} {tilt : TiltArgs → RawCoefs} {t : FilterType} {f q g g' sr : F32}
    (ht : t ∈ [FilterType.warmth, .bright, .presence, .air, .subbass, .vocal]) (h : chargain N g = chargain N g') :
    derive P N tilt t f q g sr = derive P N tilt t f q g' sr := by
  simp only [List.mem_cons, List.not_mem_nil, or_false] at ht
  obtain rfl | rfl | rfl | rfl | rfl | rfl := ht
  · exact congrArg (shelf _ _ _) h
  · exact congrArg (shelf _ _ _) h
  · exact congrArg (peak _ _) h
  · exact congrArg (shelf _ _ _) h
  · exact congrArg (shelf _ _ _) h
  · exact congrArg (peak _ _) h

/-- Settles O29: the floor is the `fmax` with 3.0. -/
theorem characterGainFloor : Obligations.CharacterGainFloor := by
  intro P N tilt t f q g sr ht
  have h3 : fmax litThree litThree = litThree := fmax_litThree_of_le (.inr (by decide))
  refine ⟨fun h => ?_, fun h => by rw [chargain, fmax_litThree_of_gt h]⟩
  have hfloor : chargain N g = N.fpow10 (fdiv litThree lit40) := by rw [chargain, fmax_litThree_of_le h]
  exact ⟨hfloor, derive_character_congr ht (by rw [hfloor, chargain, h3])⟩

end Sys2Proof.Machine

/-! ### One `DL_PROCESS` on a line (rules R51, R54, R55, R247) -/

namespace Sys2Proof.Machine

/-- The line with a value written at its cursor, and the cursor moved: what `DL_PROCESS` leaves (rule R247). -/
def DelayLine.push (d : DelayLine) (v : F32) : DelayLine := DelayLine.advance { d with buf := memWrite d.buf d.wpos v }

theorem execDlProcess_eq_push {s : State} {i : BitVec 8} {d : DelayLine} (hd : s.dl[i.toNat]? = some d)
    (hc : d.configured = true) (hw : d.wpos < d.len) (input delayMs feedback : F32) :
    execDlProcess i input delayMs feedback s =
      .next ((s.setDl i (d.push (fadd input (fmul (memRead d.buf (d.tap delayMs)) feedback)))).respond
        (.value (memRead d.buf (d.tap delayMs)))) :=
  execDlProcess_of_configured hd input delayMs feedback hc (Nat.one_le_of_lt hw) hw

/-- What a `DL_PROCESS` that completes has done: read inside the line, and written at its cursor (rule R247). -/
theorem execDlProcess_next {s t : State} {i : BitVec 8} {d : DelayLine} {input delayMs feedback : F32}
    (hd : s.dl[i.toNat]? = some d) (h : execDlProcess i input delayMs feedback s = .next t) :
    d.configured = true ∧ d.wpos < d.len ∧ ∃ out, out = memRead d.buf (d.tap delayMs) ∧
      t = (s.setDl i (d.push (fadd input (fmul out feedback)))).respond (.value out) := by
  rw [execDlProcess, withDl_of_get hd] at h
  split at h
  · cases h
  · split at h
    · cases h
    · split at h
      · cases h
      case h_2 out hr _ d' hw =>
        obtain ⟨⟨hc, hlt⟩, rfl⟩ := DelayLine.write_eq_some.1 hw
        cases h
        exact ⟨hc, hlt, out, (DelayLine.read_eq_some.1 hr).2, rfl⟩

/-- Settles O45: the write is inside the line, and a write changes one cell. -/
theorem dlProcessWritesOneCell : Obligations.DlProcessWritesOneCell := by
  intro i input delayMs feedback s t d hd hwf h
  obtain ⟨-, hlt, out, -, rfl⟩ := execDlProcess_next hd h
  refine ⟨out, _, rfl, getElem?_set_of_get hd _, memWf_write hwf hlt _, ?_, fun n hn => ?_, fun n hn => ?_⟩
  · exact (memRead_write hwf _ _ _).trans (if_pos rfl)
  · exact (memRead_write hwf _ _ _).trans (if_neg hn)
  · exact List.getElem?_set_ne hn.symm

end Sys2Proof.Machine

/-! ### The stage under UNITY, and NaNs that stay (rules R188, R302) -/

namespace Sys2Proof.Machine

/-! #### Unity -/

@[simp] theorem isZero_fabs (x : F32) : isZero (fabs x) = isZero x := by simp [isZero]

/-- Adding and subtracting zeros changes nothing but, at most, a zero's sign. -/
theorem acc_of_unity {b : Biquad} {x : F32} (hc : b.coef = ⟨litOne, litZero, litZero, litZero, litZero⟩)
    (hx1 : isFinite b.x1 = true) (hx2 : isFinite b.x2 = true) (hy1 : isFinite b.y1 = true) (hy2 : isFinite b.y2 = true)
    (hx : isNaN x = false) :
    (isZero x = false → b.acc x = x) ∧ (isZero x = true → isZero (b.acc x) = true) := by
  have hz : ∀ {y : F32}, isFinite y = true → isZero (fmul litZero y) = true := fun h => (isZero_fmul_zero rfl h).1
  simp only [Biquad.acc, hc, fmul_one hx]
  refine ⟨fun h0 => ?_, fun h0 => ?_⟩
  · rw [fadd_zero hx h0 (hz hx1), fadd_zero hx h0 (hz hx2), fsub_zero hx h0 (hz hy1), fsub_zero hx h0 (hz hy2)]
  · exact (isZero_fadd_zero (isZero_fadd_zero (isZero_fadd_zero (isZero_fadd_zero h0 (hz hx1)).1 (hz hx2)).1 (hz hy1)).2
      (hz hy2)).2

theorem units_litBiquadFlush_pos : 0 < units litBiquadFlush := by decide +kernel

/-- Settles O33: the sum is the input, or a zero for a zero; then the guard decides. -/
theorem unityPassesThrough : Obligations.UnityPassesThrough := by
  intro b x hc hx1 hx2 hy1 hy2 hx
  obtain ⟨hn, hs, hz⟩ := litBiquadFlush_facts
  obtain ⟨hne, h0⟩ := acc_of_unity hc hx1 hx2 hy1 hy2 (isFinite_iff.1 hx).1
  simp only [Biquad.output]
  refine ⟨fun h => ?_, fun h => ?_⟩
  · have hlt : flt (fabs x) litBiquadFlush = false := by
      obtain ⟨-, -, hle⟩ := fle_iff.1 h
      rw [Bool.eq_false_iff, Ne, flt_iff]
      omega
    have hx0 : isZero x = false := by
      obtain ⟨-, -, hle⟩ := fle_iff.1 h
      rw [Bool.eq_false_iff]
      intro hz
      rw [units_of_isZero ((isZero_fabs x).trans hz)] at hle
      exact absurd units_litBiquadFlush_pos (not_lt.2 hle)
    rw [hne hx0, flush, hlt]
    rfl
  · cases hx0 : isZero x with
    | false => rw [hne hx0, flush, if_pos h]
    | true => exact flush_of_isZero (h0 hx0) hn hs hz

/-! #### NaNs -/

theorem isNaN_flush {v t : F32} (h : isNaN v = true) : isNaN (flush v t) = true := by rw [flush_of_isNaN h, h]

theorem isNaN_output {b : Biquad} {x : F32}
    (h : isNaN x = true ∨ isNaN b.x1 = true ∨ isNaN b.x2 = true ∨ isNaN b.y1 = true ∨ isNaN b.y2 = true) :
    isNaN (b.output x) = true := by
  refine isNaN_flush ?_
  obtain h | h | h | h | h := h
  · exact isNaN_fsub (.inl (isNaN_fsub (.inl (isNaN_fadd (.inl (isNaN_fadd (.inl (isNaN_fmul (.inr h)))))))))
  · exact isNaN_fsub (.inl (isNaN_fsub (.inl (isNaN_fadd (.inl (isNaN_fadd (.inr (isNaN_fmul (.inr h)))))))))
  · exact isNaN_fsub (.inl (isNaN_fsub (.inl (isNaN_fadd (.inr (isNaN_fmul (.inr h)))))))
  · exact isNaN_fsub (.inl (isNaN_fsub (.inr (isNaN_fmul (.inr h)))))
  · exact isNaN_fsub (.inr (isNaN_fmul (.inr h)))

theorem isNaN_level {e : Follower} {x : F32} (h : isNaN x = true ∨ isNaN e.env = true) : isNaN (e.level x) = true := by
  refine isNaN_flush ?_
  obtain h | h := h
  · exact isNaN_fadd (.inl (by rwa [isNaN_fabs]))
  · exact isNaN_fadd (.inr (isNaN_fmul (.inr (isNaN_fsub (.inl h)))))

theorem isNaN_detect {l r : F32} (hl : isNaN l = true) (hr : isNaN r = true) : isNaN (detect l r) = true := by
  simp [detect, fmax, hl, hr]

/-- Settles O34: each new signal state is computed from the NaN by operations that keep it, and the guard lets it pass. -/
theorem nanSticks : Obligations.NaNSticks := by
  refine ⟨fun i x s t b hb hx h => ?_, fun i x s t e he hx h => ?_, fun i l r thr ratio knee s t c hc hx h => ?_,
    fun i x ms fb s t d hd hwf h hx => ?_⟩
  · cases hw : b.coefWritten with
    | false => cases (execBqProcess_of_unwritten hb x hw).symm.trans h
    | true =>
      cases (execBqProcess_of_written hb x hw).symm.trans h
      exact ⟨_, _, rfl, isNaN_output hx, getElem?_set_of_get hb _, isNaN_output hx⟩
  · cases hw : e.timesWritten with
    | false => cases (execEnvProcess_of_unwritten he x hw).symm.trans h
    | true =>
      cases (execEnvProcess_of_written he x hw).symm.trans h
      exact ⟨_, _, rfl, isNaN_level hx, getElem?_set_of_get he _, isNaN_level hx⟩
  · cases hw : c.ef.timesWritten with
    | false => cases (execCompProcess_of_unwritten hc l r thr ratio knee hw).symm.trans h
    | true =>
      cases (execCompProcess_of_written hc l r thr ratio knee hw).symm.trans h
      exact ⟨_, getElem?_set_of_get hc _, isNaN_level (hx.symm.imp (fun h => isNaN_detect h.1 h.2) id)⟩
  · obtain ⟨out, d', hr, hd', -, hread, -⟩ := dlProcessWritesOneCell i x ms fb s t d hd hwf h
    refine ⟨d', hd', hread ▸ isNaN_fadd (hx.imp id fun hout => isNaN_fmul (.inl ?_))⟩
    obtain ⟨r, hr', hn⟩ := hout
    cases hr.symm.trans hr'
    exact hn

end Sys2Proof.Machine

/-! ### The compressor: corner cases of the gain computer, and the stereo link (rules R222, R223, R225) -/

namespace Sys2Proof.Machine

/-- Adding a zero changes no comparison: a NaN stays one, and a zero stays a zero. -/
theorem fle_fadd_zero {x z : F32} (hz : isZero z = true) (y : F32) : fle (fadd x z) y = fle x y := by
  cases hn : isNaN x with
  | true => rw [fle_of_isNaN (.inl hn), fle_of_isNaN (.inl (isNaN_fadd (.inl hn)))]
  | false =>
    cases h0 : isZero x with
    | false => rw [fadd_zero hn h0 hz]
    | true =>
      have hsum := (isZero_fadd_zero h0 hz).1
      rw [Bool.eq_iff_iff, fle_iff, fle_iff, units_of_isZero hsum, units_of_isZero h0, isNaN_of_isZero hsum, hn]

theorem litTwo_facts : isFinite litTwo = true ∧ isZero litTwo = false := by decide

/-- Half of a zero knee is a zero, so the soft-knee region is empty and the threshold is its own upper edge. -/
theorem gainReduction_of_hardKnee {knee : F32} (hk : isZero knee = true) (inDb thr ratio : F32) :
    gainReduction inDb thr ratio knee =
      if fge inDb thr then fsub (fdiv (fsub inDb thr) ratio) (fsub inDb thr) else litZero := by
  have hhalf : isZero (fdiv knee litTwo) = true := isZero_fdiv_zero hk litTwo_facts.1 litTwo_facts.2
  have hsoft : inSoftKnee inDb thr (fdiv knee litTwo) knee = false := by
    have hknee : fgt knee litZero = false := by
      rw [Bool.eq_false_iff, Ne, fgt, flt_iff, units_of_isZero hk, units_of_isZero (x := litZero) rfl]
      exact fun h => lt_irrefl _ h.2.2
    rw [inSoftKnee, hknee, Bool.false_and, Bool.false_and]
  have habove : aboveKnee inDb thr (fdiv knee litTwo) = fge inDb thr := fle_fadd_zero hhalf inDb
  simp only [gainReduction, hsoft, habove, Bool.false_eq_true, if_false]

/-- A NaN fails both tests of rule R223. -/
theorem gainReduction_of_isNaN {inDb thr knee : F32} (h : isNaN inDb = true ∨ isNaN thr = true ∨ isNaN knee = true)
    (ratio : F32) : gainReduction inDb thr ratio knee = litZero := by
  have hedge : isNaN (fadd thr (fdiv knee litTwo)) = true ∨ isNaN inDb = true :=
    h.symm.imp (fun h => isNaN_fadd (h.imp id fun hk => isNaN_fdiv (.inl hk))) id
  have hsoft : inSoftKnee inDb thr (fdiv knee litTwo) knee = false := by
    rw [inSoftKnee, flt_of_isNaN hedge.symm, Bool.and_false]
  have habove : aboveKnee inDb thr (fdiv knee litTwo) = false := fle_of_isNaN hedge
  simp only [gainReduction, hsoft, habove, Bool.false_eq_true, if_false]

/-- Settles O40: a zero knee has no soft region, a NaN is in no region. -/
theorem hardKneeAndNaNOperands : Obligations.HardKneeAndNaNOperands :=
  fun inDb thr ratio _ => ⟨fun h => gainReduction_of_hardKnee h inDb thr ratio, fun h => gainReduction_of_isNaN h ratio⟩

/-! #### The stereo link -/

@[simp] theorem fabs_fneg (x : F32) : fabs (fneg x) = fabs x := eq_of_fields (by simp) (by simp)

theorem units_fabs (x : F32) : units (fabs x) = unitsOfMag (fmag x) := by simp [units_eq]

/-- An absolute value is known by its value. -/
theorem fabs_eq_of_units_eq {a b : F32} (h : units (fabs a) = units (fabs b)) : fabs a = fabs b := by
  rw [units_fabs, units_fabs] at h
  exact eq_of_fields (by simp) (by simpa using unitsOfMag_strictMono.injective (by exact_mod_cast h))

/-- Of two absolute values that are no NaN the larger one is the same from either side. -/
theorem fmax_fabs_comm {a b : F32} (ha : isNaN (fabs a) = false) (hb : isNaN (fabs b) = false) :
    fmax (fabs a) (fabs b) = fmax (fabs b) (fabs a) := by
  obtain ⟨h, hle⟩ | ⟨h, hle⟩ := fmax_cases ha hb <;> obtain ⟨h', hle'⟩ | ⟨h', hle'⟩ := fmax_cases hb ha <;> rw [h, h']
  · exact fabs_eq_of_units_eq (le_antisymm hle' hle)
  · exact fabs_eq_of_units_eq (le_antisymm hle' hle)

/-- The detection signal does not know left from right: a NaN on one side yields to the other. -/
theorem detect_comm {l r : F32} (h : ¬(isNaN l = true ∧ isNaN r = true)) : detect l r = detect r l := by
  have nl := isNaN_fabs l
  have nr := isNaN_fabs r
  unfold detect
  cases hl : isNaN l <;> cases hr : isNaN r <;> rw [hl] at nl <;> rw [hr] at nr
  case false.false => exact fmax_fabs_comm nl nr
  case false.true => rw [fmax_of_isNaN_right nl nr, fmax_of_isNaN_left nr nl]
  case true.false => rw [fmax_of_isNaN_left nl nr, fmax_of_isNaN_right nr nl]
  case true.true => exact absurd ⟨hl, hr⟩ h

/-- The samples enter `COMP_PROCESS` through the detection signal alone (rule R222). -/
theorem execCompProcess_congr {l r l' r' : F32} (h : detect l r = detect l' r') (i : BitVec 8) (thr ratio knee : F32)
    (s : State) : execCompProcess i l r thr ratio knee s = execCompProcess i l' r' thr ratio knee s := by
  rw [execCompProcess, h, execCompProcess]

/-- Settles O41: the detection signal of the exchanged, or of the negated, samples is the same. -/
theorem compressorIsStereoLinked : Obligations.CompressorIsStereoLinked :=
  fun i l r thr ratio knee s =>
    ⟨fun h => execCompProcess_congr (detect_comm h) i thr ratio knee s,
      execCompProcess_congr (by rw [detect, detect, fabs_fneg]) i thr ratio knee s,
      execCompProcess_congr (by rw [detect, detect, fabs_fneg]) i thr ratio knee s⟩

end Sys2Proof.Machine

/-! ### The law of the delay line (rule R251) -/

namespace Sys2Proof.Machine

/-- A line holds the values written so far, the latest first: `k` cells behind the cursor is the value written `k` commands ago,
for `k` from 1 to the length (a whole length back is the cursor's own cell), or +0.0 where there is none. -/
def DelayLine.Holds (d : DelayLine) (written : List F32) : Prop :=
  ∀ k, 1 ≤ k → k ≤ d.len → memRead d.buf (readPos d.wpos d.len k) = (written[k - 1]?).getD litZero

theorem readPos_zero_eq_len {w L : Nat} (hw : w < L) : readPos w L 0 = readPos w L L := by
  rw [readPos_eq_ite hw, readPos_eq_ite hw, if_pos (Nat.zero_le w), if_neg (Nat.not_le.2 hw)]
  omega

/-- One cell behind the next cursor is the cursor. -/
theorem readPos_nextPos_one {w L : Nat} (hw : w < L) : readPos (nextPos w L) L 1 = w := by
  rw [readPos_eq_ite (nextPos_lt (Nat.zero_lt_of_lt hw)), nextPos_eq_ite hw]
  split <;> split <;> omega

/-- One cell further behind the next cursor is behind the cursor. -/
theorem readPos_nextPos_succ {w L k : Nat} (hw : w < L) (hk : k < L) : readPos (nextPos w L) L (k + 1) = readPos w L k := by
  rw [readPos_eq_ite (nextPos_lt (Nat.zero_lt_of_lt hw)), readPos_eq_ite hw, nextPos_eq_ite hw]
  split <;> split <;> split <;> omega

theorem DelayLine.holds_nil {d : DelayLine} (h : d.buf = memZeroed) : d.Holds [] := fun _ _ _ => by
  rw [h, memRead_zeroed]; rfl

/-- The value the law gives for a delay, on the values written so far (rule R251). -/
def lawValue (rate : F32) (L : Nat) (written : List F32) (delayMs : F32) : F32 :=
  (written[(if delaySamples delayMs rate L = 0 then L else delaySamples delayMs rate L) - 1]?).getD litZero

theorem delayLaw_cons (rate : F32) (L : Nat) (written : List F32) (x : DelayInput) (xs : List DelayInput) :
    delayLaw rate L written (x :: xs) = lawValue rate L written x.delayMs ::
      delayLaw rate L (fadd x.input (fmul (lawValue rate L written x.delayMs) x.feedback) :: written) xs := rfl

/-- What `DL_PROCESS` reads is what the law gives. -/
theorem DelayLine.Holds.read {d : DelayLine} {written : List F32} (h : d.Holds written) (hw : d.wpos < d.len) (delayMs : F32) :
    memRead d.buf (d.tap delayMs) = lawValue d.rate d.len written delayMs := by
  have hle := delaySamples_le delayMs d.rate d.len
  rw [DelayLine.tap, lawValue]
  split
  case isTrue h0 => rw [h0, readPos_zero_eq_len hw, h d.len (by omega) le_rfl]
  case isFalse h0 => exact h _ (by omega) (by omega)

/-- Writing at the cursor and moving it puts the value in front of those written before. -/
theorem DelayLine.Holds.write {d : DelayLine} {written : List F32} (h : d.Holds written) (hwf : memWf d.len d.buf = true)
    (hw : d.wpos < d.len) (v : F32) :
    (d.push v).Holds (v :: written) := by
  intro k h1 hk
  obtain ⟨k, rfl⟩ := Nat.exists_eq_add_of_le' h1
  replace hk : k + 1 ≤ d.len := hk
  change memRead (memWrite d.buf d.wpos v) (readPos (nextPos d.wpos d.len) d.len (k + 1)) = _
  rw [memRead_write hwf]
  cases k with
  | zero => rw [readPos_nextPos_one hw, if_pos rfl]; rfl
  | succ k =>
    have hne : readPos d.wpos d.len (k + 1) ≠ d.wpos := fun heq =>
      absurd ((readPos_eq_cursor_iff hw (by omega)).1 heq) (Nat.succ_ne_zero k)
    rw [readPos_nextPos_succ hw (by omega), if_neg hne, h (k + 1) (by omega) (by omega)]
    rfl

theorem delayRun_cons {i : BitVec 8} {s t : State} {x : DelayInput} {out : F32} {xs : List DelayInput}
    (h : execDlProcess i x.input x.delayMs x.feedback s = .next t) (hr : t.response = some (.value out)) :
    delayRun i (x :: xs) s = (delayRun i xs t).map (out :: ·) := by
  replace h : exec (.dlProcess i x.input x.delayMs x.feedback) s = .next t := h
  simp only [delayRun, h, hr]

/-- From a line that holds the values written so far the law gives the results that follow. -/
theorem delayRun_of_holds {i : BitVec 8} {s : State} {d : DelayLine} {written : List F32} (xs : List DelayInput)
    (hd : s.dl[i.toNat]? = some d) (hc : d.configured = true) (hw : d.wpos < d.len) (hwf : memWf d.len d.buf = true)
    (hh : d.Holds written) : delayRun i xs s = some (delayLaw d.rate d.len written xs) := by
  induction xs generalizing s d written with
  | nil => rfl
  | cons x xs ih =>
    have hl : 1 ≤ d.len := Nat.one_le_of_lt hw
    have hexec := execDlProcess_eq_push hd hc hw x.input x.delayMs x.feedback
    obtain ⟨out, hout⟩ : ∃ out, memRead d.buf (d.tap x.delayMs) = out := ⟨_, rfl⟩
    rw [hout] at hexec
    have hget : ((s.setDl i (d.push (fadd x.input (fmul out x.feedback)))).respond (.value out)).dl[i.toNat]? = some _ :=
      getElem?_set_of_get hd _
    have hrest := ih hget hc (nextPos_lt hl) (memWf_write hwf hw _) (hh.write hwf hw _)
    rw [delayRun_cons hexec rfl, hrest, delayLaw_cons, ← hh.read hw, hout]
    rfl

/-- Settles O49: a line just initialised holds nothing written. -/
theorem delayLineReturnsWhatWasWritten : Obligations.DelayLineReturnsWhatWasWritten := by
  intro i s d xs hd hc hl hw hbuf
  exact delayRun_of_holds xs hd hc (hw ▸ hl) (hbuf ▸ memWf_zeroed _) (DelayLine.holds_nil hbuf)

end Sys2Proof.Machine
